-- ==== Sys2Proof/Word.lean ====
section
/-!
DEFINITION. The widths of the BELLE-ISA (00_scope.md R4 and section 4, 10_state.md R10).
-/

namespace Sys2Proof

/-- A memory cell's content, R0 to R5, pc, sp, bp, the instruction register, an instruction (R4, R25). -/
abbrev Word := BitVec 16

/-- A byte of a ROM file or a console character (R32, R94). -/
abbrev Byte := BitVec 8

/-- The content of a float register R6 or R7: a binary32 pattern (R10; D24, log 7). -/
abbrev FloatWord := BitVec 32

/-- `wrap16(i)` of R4: the word congruent to the integer `i` modulo 65536. -/
def wrap16 (i : Int) : Word := BitVec.ofInt 16 i

end Sys2Proof
end

