-- ==== Sys2Proof/Syntax.lean ====
section
/-!
DEFINITION. The instructions: one constructor of `Instr` per row of spec/opcode_table.json (45 encoding forms of 20
mnemonics), and the names the instruction fields stand for.
-/

namespace Sys2Proof

/-- The six 16-bit general registers (R10). -/
inductive WordReg where
  | r0 | r1 | r2 | r3 | r4 | r5
deriving DecidableEq, Repr

/-- The two 32-bit float registers (R10). -/
inductive FloatReg where
  | r6 | r7
deriving DecidableEq, Repr

/-- The eight general registers, which a 3-bit register field names (R9, R57). -/
inductive Gpr where
  | word (r : WordReg)
  | float (r : FloatReg)
deriving DecidableEq, Repr

/-- The ten numbered registers, which a 4-bit register field names: R0 to R7, pc (8) and sp (9) (R11, R57). -/
inductive Reg where
  | gpr (g : Gpr)
  | pc
  | sp
deriving DecidableEq, Repr

/-- The four forms of the right side of a format A instruction (R47). -/
inductive Rhs where
  | imm (i : BitVec 8)
  | reg (n : BitVec 4)
  | regi (n : BitVec 4)
  | memi (a : BitVec 7)
deriving DecidableEq, Repr

/-- The two forms of the target of JMP and the six Bcc (R53). -/
inductive Target where
  | mem (a : BitVec 10)
  | reg (n : BitVec 4)
deriving DecidableEq, Repr

/-- The 45 encoding forms of opcode_table.json, in the table's order. `d`: 3-bit LHS register field; `n`: 4-bit
register field; `i`: 8-bit immediate field; `a`: address field; `r`: 3-bit source register field. -/
inductive Instr where
  | hlt (ignored : BitVec 12)
  | addImm (d : BitVec 3) (i : BitVec 8)
  | addReg (d : BitVec 3) (n : BitVec 4)
  | addRegi (d : BitVec 3) (n : BitVec 4)
  | addMemi (d : BitVec 3) (a : BitVec 7)
  | divImm (d : BitVec 3) (i : BitVec 8)
  | divReg (d : BitVec 3) (n : BitVec 4)
  | divRegi (d : BitVec 3) (n : BitVec 4)
  | divMemi (d : BitVec 3) (a : BitVec 7)
  | cmpImm (d : BitVec 3) (i : BitVec 8)
  | cmpReg (d : BitVec 3) (n : BitVec 4)
  | cmpRegi (d : BitVec 3) (n : BitVec 4)
  | cmpMemi (d : BitVec 3) (a : BitVec 7)
  | nandImm (d : BitVec 3) (i : BitVec 8)
  | nandReg (d : BitVec 3) (n : BitVec 4)
  | nandRegi (d : BitVec 3) (n : BitVec 4)
  | nandMemi (d : BitVec 3) (a : BitVec 7)
  | movImm (d : BitVec 3) (i : BitVec 8)
  | movReg (d : BitVec 3) (n : BitVec 4)
  | movRegi (d : BitVec 3) (n : BitVec 4)
  | movMemi (d : BitVec 3) (a : BitVec 7)
  | ld (d : BitVec 3) (a : BitVec 9)
  | lea (d : BitVec 3) (a : BitVec 9)
  | stMem (a : BitVec 8) (r : BitVec 3)
  | stRegi (n : BitVec 4) (r : BitVec 3)
  | popReg (n : BitVec 4)
  | popMem (a : BitVec 11)
  | pushImm (i : BitVec 8)
  | pushReg (n : BitVec 4)
  | int (i : BitVec 8)
  | jmpMem (a : BitVec 10)
  | jmpReg (n : BitVec 4)
  | ret
  | boMem (a : BitVec 10)
  | boReg (n : BitVec 4)
  | bnoMem (a : BitVec 10)
  | bnoReg (n : BitVec 4)
  | blMem (a : BitVec 10)
  | blReg (n : BitVec 4)
  | bgMem (a : BitVec 10)
  | bgReg (n : BitVec 4)
  | bzMem (a : BitVec 10)
  | bzReg (n : BitVec 4)
  | bnzMem (a : BitVec 10)
  | bnzReg (n : BitVec 4)
deriving DecidableEq, Repr

/-- ADD with any of its four right sides (R66). -/
def Instr.add (d : BitVec 3) : Rhs → Instr
  | .imm i => .addImm d i
  | .reg n => .addReg d n
  | .regi n => .addRegi d n
  | .memi a => .addMemi d a

/-- DIV with any of its four right sides (R67). -/
def Instr.div (d : BitVec 3) : Rhs → Instr
  | .imm i => .divImm d i
  | .reg n => .divReg d n
  | .regi n => .divRegi d n
  | .memi a => .divMemi d a

/-- CMP with any of its four right sides (R68). -/
def Instr.cmp (d : BitVec 3) : Rhs → Instr
  | .imm i => .cmpImm d i
  | .reg n => .cmpReg d n
  | .regi n => .cmpRegi d n
  | .memi a => .cmpMemi d a

/-- NAND with any of its four right sides (R69). -/
def Instr.nand (d : BitVec 3) : Rhs → Instr
  | .imm i => .nandImm d i
  | .reg n => .nandReg d n
  | .regi n => .nandRegi d n
  | .memi a => .nandMemi d a

/-- MOV with any of its four right sides (R80). -/
def Instr.mov (d : BitVec 3) : Rhs → Instr
  | .imm i => .movImm d i
  | .reg n => .movReg d n
  | .regi n => .movRegi d n
  | .memi a => .movMemi d a

/-- JMP with either target form (R82). -/
def Instr.jmp : Target → Instr
  | .mem a => .jmpMem a
  | .reg n => .jmpReg n

/-- The six conditional branches (R83). -/
inductive Branch where
  | bo | bno | bz | bnz | bl | bg
deriving DecidableEq, Repr

/-- A conditional branch with either target form (R84 to R89). -/
def Instr.bcc : Branch → Target → Instr
  | .bo, .mem a => .boMem a
  | .bo, .reg n => .boReg n
  | .bno, .mem a => .bnoMem a
  | .bno, .reg n => .bnoReg n
  | .bz, .mem a => .bzMem a
  | .bz, .reg n => .bzReg n
  | .bnz, .mem a => .bnzMem a
  | .bnz, .reg n => .bnzReg n
  | .bl, .mem a => .blMem a
  | .bl, .reg n => .blReg n
  | .bg, .mem a => .bgMem a
  | .bg, .reg n => .bgReg n

end Sys2Proof
end

