-- ==== Sys2Proof/WellFormed.lean ====
section
/-!
DEFINITION. Which terms of `Instr` are instructions. The field widths of `Instr` already say every bound of R47 to
R53; one condition is left.
-/

namespace Sys2Proof

/-- BL in memory form cannot name address 0: that word, 0x5000, is RET (R54, R88, C12). Every other term is an
instruction; a 4-bit register field of 10 to 15 is one too, and raises InvalidRegister when it runs (R57). -/
def Instr.wellFormed : Instr → Bool
  | .blMem a => a != 0#10
  | _ => true

end Sys2Proof
end

