-- ==== Sys2Proof/Decode.lean ====
section
/-!
DEFINITION. The decoder (30_encoding.md R58), total on words and refusing by name, and the encoder, written from the
format tables R47 to R54.
-/

namespace Sys2Proof

/-- Why a word is no instruction: the seven cases of R59. -/
inductive DecodeError where
  /-- (a) leading bits 10001: JMP has no inverted form. -/
  | invertedJump
  /-- (b) a format A word with bits 8:7 = 00 and bits 6:4 other than 000 and 100. -/
  | formatA
  /-- (c) S-regi with bits 6:3 not 0000. -/
  | storeBits
  /-- (d) POP with bit 11 = 0 and bits 10:4 not 0000000. -/
  | popBits
  /-- (e) PUSH with bits 11:9 not 000, or bit 8 = 0 and bits 7:4 not 0000. -/
  | pushBits
  /-- (f) INT with bits 11:8 not 0001. -/
  | intBits
  /-- (g) J-reg with bits 9:4 not 000000. -/
  | jumpBits
deriving DecidableEq, Repr

/-- The field of `w` of `len` bits whose lowest is bit `lo` (R3). -/
def field (w : Word) (lo len : Nat) : BitVec len := w.extractLsb' lo len

/-- The right side of a format A word: the first 1 among bits 8, 7, 6 selects the form (R47, R58). -/
def decodeRhs (w : Word) : Except DecodeError Rhs :=
  if field w 8 1 = 1#1 then .ok (.imm (field w 0 8))
  else if field w 7 1 = 1#1 then .ok (.memi (field w 0 7))
  else if field w 4 3 = 0b100#3 then .ok (.regi (field w 0 4))
  else if field w 4 3 = 0b000#3 then .ok (.reg (field w 0 4))
  else .error .formatA

/-- A format A word as the instruction `f` with its LHS register field and right side (R47). -/
def decodeFormatA (f : BitVec 3 → Rhs → Instr) (w : Word) : Except DecodeError Instr :=
  (decodeRhs w).map (f (field w 9 3))

/-- The target of a format J word (R53). -/
def decodeTarget (w : Word) : Except DecodeError Target :=
  if field w 10 1 = 0#1 then .ok (.mem (field w 0 10))
  else if field w 4 6 = 0#6 then .ok (.reg (field w 0 4))
  else .error .jumpBits

/-- A conditional branch word: bit 11 (iv) chooses between the plain and the inverted branch (R53). -/
def decodeBcc (plain inverted : Branch) (w : Word) : Except DecodeError Instr :=
  (decodeTarget w).map (Instr.bcc (if field w 11 1 = 0#1 then plain else inverted))

/-- ST (R49). -/
def decodeStore (w : Word) : Except DecodeError Instr :=
  if field w 11 1 = 0#1 then .ok (.stMem (field w 3 8) (field w 0 3))
  else if field w 3 4 = 0#4 then .ok (.stRegi (field w 7 4) (field w 0 3))
  else .error .storeBits

/-- POP (R50). -/
def decodePop (w : Word) : Except DecodeError Instr :=
  if field w 11 1 = 1#1 then .ok (.popMem (field w 0 11))
  else if field w 4 7 = 0#7 then .ok (.popReg (field w 0 4))
  else .error .popBits

/-- PUSH (R51). -/
def decodePush (w : Word) : Except DecodeError Instr :=
  if field w 9 3 ≠ 0#3 then .error .pushBits
  else if field w 8 1 = 1#1 then .ok (.pushImm (field w 0 8))
  else if field w 4 4 = 0#4 then .ok (.pushReg (field w 0 4))
  else .error .pushBits

/-- INT (R52). -/
def decodeInt (w : Word) : Except DecodeError Instr :=
  if field w 8 4 = 0b0001#4 then .ok (.int (field w 0 8)) else .error .intBits

/-- JMP: bit 11 set is no instruction (R53, R59). -/
def decodeJmp (w : Word) : Except DecodeError Instr :=
  if field w 11 1 = 0#1 then (decodeTarget w).map Instr.jmp else .error .invertedJump

/-- The decoding algorithm of R58, on the opcode bits 15:12; the test for RET comes before BL. -/
def decode (w : Word) : Except DecodeError Instr :=
  match (field w 12 4).toNat with
  | 0x0 => .ok (.hlt (field w 0 12))
  | 0x1 => decodeFormatA Instr.add w
  | 0x2 => decodeBcc .bo .bno w
  | 0x3 => decodePop w
  | 0x4 => decodeFormatA Instr.div w
  | 0x5 => if w = 0x5000#16 then .ok .ret else decodeBcc .bl .bg w
  | 0x6 => .ok (.ld (field w 9 3) (field w 0 9))
  | 0x7 => decodeStore w
  | 0x8 => decodeJmp w
  | 0x9 => decodeBcc .bz .bnz w
  | 0xA => decodeFormatA Instr.cmp w
  | 0xB => decodeFormatA Instr.nand w
  | 0xC => decodePush w
  | 0xD => decodeInt w
  | 0xE => decodeFormatA Instr.mov w
  | _ => .ok (.lea (field w 9 3) (field w 0 9))

/-- The A-imm row of R47: opcode, LHS register, 1, immediate. -/
def encodeImm (op : BitVec 4) (d : BitVec 3) (i : BitVec 8) : Word := op ++ d ++ 1#1 ++ i

/-- The A-memi row of R47. -/
def encodeMemi (op : BitVec 4) (d : BitVec 3) (a : BitVec 7) : Word := op ++ d ++ 0b01#2 ++ a

/-- The A-regi row of R47. -/
def encodeRegi (op : BitVec 4) (d : BitVec 3) (n : BitVec 4) : Word := op ++ d ++ 0b00100#5 ++ n

/-- The A-reg row of R47. -/
def encodeReg (op : BitVec 4) (d : BitVec 3) (n : BitVec 4) : Word := op ++ d ++ 0b00000#5 ++ n

/-- The J-mem row of R53: opcode, iv, 0, address. -/
def encodeJumpMem (op : BitVec 4) (iv : BitVec 1) (a : BitVec 10) : Word := op ++ iv ++ 0#1 ++ a

/-- The J-reg row of R53: opcode, iv, 1, six zeros, register. -/
def encodeJumpReg (op : BitVec 4) (iv : BitVec 1) (n : BitVec 4) : Word := op ++ iv ++ 1#1 ++ 0#6 ++ n

/-- The word of an instruction (R46 to R54). -/
def encode : Instr → Word
  | .hlt x => 0x0#4 ++ x
  | .addImm d i => encodeImm 0x1#4 d i
  | .addReg d n => encodeReg 0x1#4 d n
  | .addRegi d n => encodeRegi 0x1#4 d n
  | .addMemi d a => encodeMemi 0x1#4 d a
  | .divImm d i => encodeImm 0x4#4 d i
  | .divReg d n => encodeReg 0x4#4 d n
  | .divRegi d n => encodeRegi 0x4#4 d n
  | .divMemi d a => encodeMemi 0x4#4 d a
  | .cmpImm d i => encodeImm 0xA#4 d i
  | .cmpReg d n => encodeReg 0xA#4 d n
  | .cmpRegi d n => encodeRegi 0xA#4 d n
  | .cmpMemi d a => encodeMemi 0xA#4 d a
  | .nandImm d i => encodeImm 0xB#4 d i
  | .nandReg d n => encodeReg 0xB#4 d n
  | .nandRegi d n => encodeRegi 0xB#4 d n
  | .nandMemi d a => encodeMemi 0xB#4 d a
  | .movImm d i => encodeImm 0xE#4 d i
  | .movReg d n => encodeReg 0xE#4 d n
  | .movRegi d n => encodeRegi 0xE#4 d n
  | .movMemi d a => encodeMemi 0xE#4 d a
  | .ld d a => 0x6#4 ++ d ++ a
  | .lea d a => 0xF#4 ++ d ++ a
  | .stMem a r => 0x7#4 ++ 0#1 ++ a ++ r
  | .stRegi n r => 0x7#4 ++ 1#1 ++ n ++ 0#4 ++ r
  | .popReg n => 0x3#4 ++ 0#8 ++ n
  | .popMem a => 0x3#4 ++ 1#1 ++ a
  | .pushImm i => 0xC#4 ++ 0#3 ++ 1#1 ++ i
  | .pushReg n => 0xC#4 ++ 0#3 ++ 0#5 ++ n
  | .int i => 0xD#4 ++ 0#3 ++ 1#1 ++ i
  | .jmpMem a => encodeJumpMem 0x8#4 0#1 a
  | .jmpReg n => encodeJumpReg 0x8#4 0#1 n
  | .ret => 0x5000#16
  | .boMem a => encodeJumpMem 0x2#4 0#1 a
  | .boReg n => encodeJumpReg 0x2#4 0#1 n
  | .bnoMem a => encodeJumpMem 0x2#4 1#1 a
  | .bnoReg n => encodeJumpReg 0x2#4 1#1 n
  | .blMem a => encodeJumpMem 0x5#4 0#1 a
  | .blReg n => encodeJumpReg 0x5#4 0#1 n
  | .bgMem a => encodeJumpMem 0x5#4 1#1 a
  | .bgReg n => encodeJumpReg 0x5#4 1#1 n
  | .bzMem a => encodeJumpMem 0x9#4 0#1 a
  | .bzReg n => encodeJumpReg 0x9#4 0#1 n
  | .bnzMem a => encodeJumpMem 0x9#4 1#1 a
  | .bnzReg n => encodeJumpReg 0x9#4 1#1 n

/-- The instruction the decoder reads from the table word `w` of `nbits` bits, every bit above them zero. An
instruction is one 16-bit cell (R44), which the hardware stores whole, so there is no byte order to lay out (R32). -/
def decodeTableWord (nbits w : Nat) : Option Instr :=
  (decode (BitVec.ofNat 16 (w % 2 ^ nbits))).toOption

end Sys2Proof
end

