-- ==== Sys2Proof/Config.lean ====
section
/-!
DEFINITION. What is fixed for one machine: the spec's constants (00_scope.md section 4), and the FREE VALUES, which
the spec leaves open. A free value is an opaque constant: no proof can learn what it is.
-/

namespace Sys2Proof

/-- One answer of the INPUT oracle to INT 9 (R94): a character, or the end of the input (open, U27). -/
inductive CharDraw where
  | char (c : Byte)
  | ended
deriving DecidableEq, Repr, Inhabited

/-- One answer of the INPUT oracle to INT 40 (R99): a line and the word it parses to; a line that is not a 16-bit
integer, or the end of the input (both open, U27). -/
inductive LineDraw where
  | parsed (text : List Byte) (value : Word)
  | unparsed (text : List Byte)
  | ended
deriving DecidableEq, Repr, Inhabited

/-- The two operations that compute in float when their destination is R6 or R7 (R70). -/
inductive FloatOp where
  | add
  | div
deriving DecidableEq, Repr

namespace Config

/-- START_DEFAULT (00_scope.md section 4, R123). -/
def startDefault : Word := 0x0064#16

/-- SP_INIT (00_scope.md section 4, R23). -/
def spInit : Word := 0x0063#16

/-- BP_INIT (00_scope.md section 4, R23). -/
def bpInit : Word := 0x0063#16

/-- VIDEO_BASE (R35). -/
def videoBase : Nat := 0xFF

/-- VIDEO_END: the first address after the video memory (R35, C10). -/
def videoEnd : Nat := 0x9C9

/-- COLS (R35). -/
def screenCols : Nat := 75

/-- ROWS (R35). -/
def screenRows : Nat := 30

/-- F2I of FloatCfg: the word a float register reads as where a word is wanted (R24, R70; open, log 12). -/
opaque f2i : FloatWord → Word

/-- FADD of FloatCfg (R70; open, log 8). -/
opaque fadd : FloatWord → FloatWord → FloatWord

/-- FDIV of FloatCfg (R70; open, log 8). -/
opaque fdiv : FloatWord → FloatWord → FloatWord

/-- FLT of FloatCfg: the S flag of a CMP with a float left side (R70; open, log 11). -/
opaque flt : FloatWord → FloatWord → Bool

/-- FEQ of FloatCfg: the Z flag of a CMP with a float left side (R70; open, log 11). -/
opaque feq : FloatWord → FloatWord → Bool

/-- O after a float ADD or DIV, from the operation, the operands and O before it (R70; open, log 9). -/
opaque floatFlagO : FloatOp → FloatWord → FloatWord → Bool → Bool

/-- R after a float ADD or DIV, from the operation, the operands and R before it (R70; open, log 9). -/
opaque floatFlagR : FloatOp → FloatWord → FloatWord → Bool → Bool

/-- Whether a float DIV of these operands, the divisor being zero, raises DivideByZero (R70, R109; open, log 10). -/
opaque floatDivZeroRaises : FloatWord → FloatWord → Bool

/-- The `k`th draw of INT 9 when no supplied character is left (R94, D22; log 23). -/
opaque charDraw : Nat → CharDraw

/-- The `k`th draw of INT 40 when no supplied line is left (R99, D22; log 23). -/
opaque lineDraw : Nat → LineDraw

/-- What R0 receives when draw `k` of INT 9 or INT 40 is one of the open failure cases (U27; log 24). -/
opaque inputFailure : Nat → Word

/-- What draw `k` of INT 8 prints when R0 is above R1 (R93, U24; log 21). -/
opaque descendingPrint : Nat → List (Nat × Word)

end Config

end Sys2Proof
end

