-- ==== Sys2Proof/Machine/State.lean ====
section
/-!
DEFINITION. The state of the machine as plain data (10_state.md), the reasons a step can stop, and the state after
reset (R23).
-/

namespace Sys2Proof.Machine

/-- The six errors (60_exceptions.md R106). -/
inductive MachineError where
  | segfault
  | illegalInstruction
  | divideByZero
  | invalidRegister
  | stackOverflow
  | stackUnderflow
deriving DecidableEq, Repr

/-- The run state (R19): only a running machine executes; the other two are terminal. -/
inductive RunState where
  | running
  | halted
  | crashed (e : MachineError)
deriving DecidableEq, Repr

/-- A value as a register holds it: a word, or a float in R6 or R7 (R10). -/
inductive Value where
  | word (w : Word)
  | float (f : FloatWord)
deriving DecidableEq, Repr

/-- What the console shows, as events that carry values (R21; D21, log 22). -/
inductive OutEvent where
  /-- INT 0 to 7: the value of the register, then a newline (R92). -/
  | printReg (g : Gpr) (v : Value)
  /-- INT 8: the initialised cells printed, each with its address (R93). -/
  | printMem (cells : List (Nat × Word))
  /-- INT 40: the echo of the line read (R99). -/
  | echo (text : List Byte)
deriving DecidableEq, Repr

/-- The memory: the initialised cells as (address, word) pairs, addresses strictly rising; a cell that is not listed
is uninitialised, NULL (R25, R27; log 1). -/
abbrev Memory := List (Nat × Word)

/-- The state of the machine (10_state.md, head). -/
structure State where
  /-- R0 (R9, R10). -/
  r0 : Word
  /-- R1 (R9, R10). -/
  r1 : Word
  /-- R2 (R9, R10). -/
  r2 : Word
  /-- R3 (R9, R10). -/
  r3 : Word
  /-- R4 (R9, R10). -/
  r4 : Word
  /-- R5 (R9, R10). -/
  r5 : Word
  /-- R6, a float (R10). -/
  r6 : FloatWord
  /-- R7, a float (R10). -/
  r7 : FloatWord
  /-- The program counter, register 8 (R12). -/
  pc : Word
  /-- The stack pointer, register 9 (R13). -/
  sp : Word
  /-- The base pointer, which has no number (R14). -/
  bp : Word
  /-- The instruction register (R15). -/
  ir : Word
  /-- The zero flag Z (R16). -/
  flagZ : Bool
  /-- The sign flag S (R16). -/
  flagS : Bool
  /-- The overflow flag O (R16). -/
  flagO : Bool
  /-- The remainder flag R (R16). -/
  flagR : Bool
  /-- Whether a taken Bcc pushes a return address (R18). -/
  pushRet : Bool
  /-- The run state (R19). -/
  run : RunState
  /-- The memory (R25 to R27). -/
  mem : Memory
  /-- The console output so far, oldest first (R21). -/
  out : List OutEvent
  /-- The supplied answers of the INPUT oracle that INT 9 will read next (R94; log 23). -/
  inChars : List CharDraw
  /-- The supplied answers of the INPUT oracle that INT 40 will read next (R99; log 23). -/
  inLines : List LineDraw
  /-- The model's own: the number of the next free value (log 23). -/
  draws : Nat
deriving DecidableEq, Repr

/-- Why the machine takes no step: it has left the Running state, which R19 and R114 make terminal. Both are raised by
`step` alone, never by an instruction, and both are safe: the hardware does nothing either. -/
inductive Fault where
  /-- `step` of a machine halted by HLT (R64, U30). Safe. -/
  | halted
  /-- `step` of a machine in the crash state (R113, U29). Safe. -/
  | crashed (e : MachineError)
deriving DecidableEq, Repr

/-- Why the model gives no meaning. -/
inductive Refusal where
  /-- Raised by `exec` alone, for an instruction that has no meaning yet. No arm raises it: every instruction has its
  meaning. Safe. -/
  | notModelled (mnemonic : String)
deriving DecidableEq, Repr

/-- The machine right after a load that places `image` in memory and starts at `start` (R123 steps 5 to 8; logs 2 to 6
for the values R23 does not give). -/
def State.resetAt (start : Word) (image : Memory) : State where
  r0 := 0#16
  r1 := 0#16
  r2 := 0#16
  r3 := 0#16
  r4 := 0#16
  r5 := 0#16
  r6 := 0#32
  r7 := 0#32
  pc := start
  sp := Config.spInit
  bp := Config.bpInit
  ir := 0#16
  flagZ := false
  flagS := false
  flagO := false
  flagR := false
  pushRet := true
  run := .running
  mem := image
  out := []
  inChars := []
  inLines := []
  draws := 0

/-- The machine right after reset: the default start address, every cell NULL (R23, R27). -/
def State.reset : State := State.resetAt Config.startDefault []

end Sys2Proof.Machine
end

