-- ==== Sys2Proof/Machine/Convert.lean ====
section
/-!
DEFINITION. How words, addresses, immediates and floats turn into each other. The spec's named parameters IMM_DECODE,
ADDR_SIGNED, IDIV and FloatCfg.I2F (00_scope.md section 4) stand here at their defaults.
-/

namespace Sys2Proof.Machine

/-- `oob(X)` (R6). -/
def oob (x : Int) : Bool := decide (x < 0) || decide (0xFFFF < x)

/-- The parameter ADDR_SIGNED at its default (R36, D6; log 14). -/
def addrSigned : Bool := true

/-- `toaddr(w)`: the address a word from a register or a pointer cell denotes (R36). -/
def toaddr (w : Word) : Int := if addrSigned then w.toInt else (w.toNat : Int)

/-- `sext_8(b)`: the parameter IMM_DECODE at its default, two's complement (R4, R55, D5; log 13). -/
def sext8 (b : BitVec 8) : Word := b.signExtend 16

/-- The parameter IDIV at its default: the quotient truncated toward zero (R67, D8; log 16). -/
def idiv (a b : Int) : Int := a.tdiv b

/-- `I2F` of FloatCfg: the binary32 pattern of the signed value of `w`, exact (R70, D24; log 7). The significand's
leading 1 is not stored. -/
def i2f (w : Word) : FloatWord :=
  let mag := w.toInt.natAbs
  if mag = 0 then 0#32
  else
    (if w.toInt < 0 then 1#1 else 0#1) ++ BitVec.ofNat 8 (127 + mag.log2) ++
      BitVec.ofNat 23 (mag * 2 ^ (23 - mag.log2))

/-- Whether a binary32 pattern is a zero of either sign (D24; log 10). -/
def floatIsZero (f : FloatWord) : Bool := f.extractLsb' 0 31 == 0#31

/-- A value where a word is wanted: a float goes through the open F2I (R24). -/
def Value.asWord : Value → Word
  | .word w => w
  | .float f => Config.f2i f

/-- A value where a float is wanted: a word is cast (R70, "implicitly cast to a float"). -/
def Value.asFloat : Value → FloatWord
  | .word w => i2f w
  | .float f => f

end Sys2Proof.Machine
end

