-- ==== Sys2Proof/Machine/Ops.lean ====
section
/-!
DEFINITION. The named operations over memory and registers, taking an error, the two stack primitives and the fetch.
An operation that can raise an error answers `Except MachineError`; `complete` takes the error.
-/

namespace Sys2Proof.Machine

/-! ### The memory (20_memory.md) -/

/-- The form every memory has: addresses strictly rising, each one an address (R25; log 1). -/
abbrev Memory.wf (m : Memory) : Prop :=
  m.Pairwise (fun p q => p.1 < q.1) ∧ ∀ p ∈ m, p.1 < 65536

/-- The content of cell `a`; `none` is NULL (R27). -/
def Memory.read : Memory → Nat → Option Word
  | [], _ => none
  | (b, w) :: m, a => if a = b then some w else Memory.read m a

/-- Cell `a` initialised with `v`, whatever it held (R29). -/
def Memory.write : Memory → Nat → Word → Memory
  | [], a, v => [(a, v)]
  | (b, w) :: m, a, v =>
    if a < b then (a, v) :: (b, w) :: m
    else if a = b then (a, v) :: m
    else (b, w) :: Memory.write m a v

/-- Cell `a` made NULL again (R27, R74). -/
def Memory.erase : Memory → Nat → Memory
  | [], _ => []
  | (b, w) :: m, a => if a = b then m else (b, w) :: Memory.erase m a

/-! ### The registers and the other state, one update each -/

/-- The content of R0 to R5. -/
def State.getWord (s : State) : WordReg → Word
  | .r0 => s.r0
  | .r1 => s.r1
  | .r2 => s.r2
  | .r3 => s.r3
  | .r4 => s.r4
  | .r5 => s.r5

/-- The content of R6 or R7. -/
def State.getFloat (s : State) : FloatReg → FloatWord
  | .r6 => s.r6
  | .r7 => s.r7

/-- R0 to R5 written. -/
def State.setWord (s : State) : WordReg → Word → State
  | .r0, v => { s with r0 := v }
  | .r1, v => { s with r1 := v }
  | .r2, v => { s with r2 := v }
  | .r3, v => { s with r3 := v }
  | .r4, v => { s with r4 := v }
  | .r5, v => { s with r5 := v }

/-- R6 or R7 written. -/
def State.setFloat (s : State) : FloatReg → FloatWord → State
  | .r6, v => { s with r6 := v }
  | .r7, v => { s with r7 := v }

/-- pc written, with no check: see `setpc`. -/
def State.setPc (s : State) (v : Word) : State := { s with pc := v }

/-- sp written. -/
def State.setSp (s : State) (v : Word) : State := { s with sp := v }

/-- bp written. -/
def State.setBp (s : State) (v : Word) : State := { s with bp := v }

/-- ir written. -/
def State.setIr (s : State) (v : Word) : State := { s with ir := v }

/-- Z written. -/
def State.setZ (s : State) (b : Bool) : State := { s with flagZ := b }

/-- S written. -/
def State.setS (s : State) (b : Bool) : State := { s with flagS := b }

/-- O written. -/
def State.setO (s : State) (b : Bool) : State := { s with flagO := b }

/-- R written. -/
def State.setR (s : State) (b : Bool) : State := { s with flagR := b }

/-- push_ret written. -/
def State.setPushRet (s : State) (b : Bool) : State := { s with pushRet := b }

/-- The run state written. -/
def State.setRun (s : State) (r : RunState) : State := { s with run := r }

/-- The memory replaced. -/
def State.setMem (s : State) (m : Memory) : State := { s with mem := m }

/-- Events appended to the console output (R21). -/
def State.emit (s : State) (es : List OutEvent) : State := { s with out := s.out ++ es }

/-- The supplied characters replaced. -/
def State.setInChars (s : State) (cs : List CharDraw) : State := { s with inChars := cs }

/-- The supplied lines replaced. -/
def State.setInLines (s : State) (ls : List LineDraw) : State := { s with inLines := ls }

/-- The next free value used up. -/
def State.nextDraw (s : State) : State := { s with draws := s.draws + 1 }

/-! ### Taking an error (60_exceptions.md R113)

There is no return from an error to stand beside it: R114. -/

/-- `raise E`: the crash state is entered and nothing else changes (R8, R113). -/
def raise (e : MachineError) (s : State) : State := s.setRun (.crashed e)

/-- The end of an instruction begun in `s`: the state it leaves, or the error it raised, taken in `s`. -/
def complete (s : State) : Except MachineError State → Host.Outcome State Fault Refusal
  | .ok t => .next t
  | .error e => .next (raise e s)

/-! ### Accesses -/

/-- `MemRead(a, 1)` (R28). -/
def memRead (s : State) (a : Int) : Except MachineError Word :=
  if oob a then .error .segfault
  else match s.mem.read a.toNat with
    | none => .error .segfault
    | some w => .ok w

/-- `MemWrite(a, 1, v)` (R29). -/
def memWrite (s : State) (a : Int) (v : Word) : Except MachineError State :=
  if oob a then .error .segfault else .ok (s.setMem (s.mem.write a.toNat v))

/-- `setpc(X)` (R7). -/
def setpc (s : State) (x : Int) : Except MachineError State :=
  if oob x then .error .segfault else .ok (s.setPc (wrap16 x))

/-- sp set to an address, Segfault when it is out of bounds (R24 for register 9, R101). -/
def setsp (s : State) (x : Int) : Except MachineError State :=
  if oob x then .error .segfault else .ok (s.setSp (wrap16 x))

/-- bp set to an address, Segfault when it is out of bounds (R102). -/
def setbp (s : State) (x : Int) : Except MachineError State :=
  if oob x then .error .segfault else .ok (s.setBp (wrap16 x))

/-- The value register `r` holds; R6 and R7 hold floats, register 8 is the incremented pc (R12, R24). -/
def regValue (s : State) : Reg → Value
  | .gpr (.word r) => .word (s.getWord r)
  | .gpr (.float r) => .float (s.getFloat r)
  | .pc => .word s.pc
  | .sp => .word s.sp

/-- `x[n]`, the register read as a word (R24). -/
def readReg (s : State) (r : Reg) : Word := (regValue s r).asWord

/-- `x[n] <- v` for a general register; R6 and R7 receive the word cast to a float (R24). -/
def writeGpr (s : State) : Gpr → Word → State
  | .word r, v => s.setWord r v
  | .float r, v => s.setFloat r (i2f v)

/-- `x[n] <- v` for any numbered register (R24). -/
def writeReg (s : State) : Reg → Word → Except MachineError State
  | .gpr g, v => .ok (writeGpr s g v)
  | .pc, v => setpc s (toaddr v)
  | .sp, v => setsp s (toaddr v)

/-! ### The call stack (42_stack.md) -/

/-- Where a push moves sp: away from bp, StackOverflow when it would leave the address space (R72, R73). -/
def pushSp (s : State) : Except MachineError Word :=
  if s.sp > s.bp then
    if s.sp = 0xFFFF#16 then .error .stackOverflow else .ok (s.sp + 1)
  else if s.sp < s.bp then
    if s.sp = 0x0000#16 then .error .stackOverflow else .ok (s.sp - 1)
  else .ok s.sp

/-- Where a pop moves sp: one step toward bp (R72, R74). -/
def popSp (s : State) : Word :=
  if s.sp > s.bp then s.sp - 1 else if s.sp < s.bp then s.sp + 1 else s.sp

/-- `push(e)`: sp moves, then `e` is evaluated and written to the cell at sp (R73). -/
def push (s : State) (e : State → Word) : Except MachineError State :=
  (pushSp s).map fun p => (s.setSp p).setMem (s.mem.write p.toNat (e (s.setSp p)))

/-- The last two statements of `pop`, on the sp of this moment: its cell becomes NULL, and sp moves toward bp (R74). -/
def dropTop (s : State) : State := (s.setMem (s.mem.erase s.sp.toNat)).setSp (popSp s)

/-- `pop(dst)`: the word at sp goes to `dst`, which may raise; then its cell is dropped (R74). -/
def pop (s : State) (dst : State → Word → Except MachineError State) : Except MachineError State :=
  match s.mem.read s.sp.toNat with
  | none => .error .stackUnderflow
  | some v => (dst s v).map dropTop

/-! ### The fetch (10_state.md R22, steps 1 to 3) -/

/-- The word at pc into ir and pc moved past it; `.error` carries the state a failed fetch crashes in (R22, R113). -/
def fetch (s : State) : Except State State :=
  match s.mem.read s.pc.toNat with
  | none => .error (raise .segfault s)
  | some w =>
    if s.pc = 0xFFFF#16 then .error (raise .segfault (s.setIr w))
    else .ok ((s.setIr w).setPc (s.pc + 1))

end Sys2Proof.Machine
end

