-- ==== Sys2Proof/Machine/Operands.lean ====
section
/-!
DEFINITION. The operand forms (20_memory.md R36 to R38): what register a field names, the value of a source operand,
the location of a target.
-/

namespace Sys2Proof.Machine

/-- The register a 3-bit field names (R57). -/
def gprOf (d : BitVec 3) : Gpr :=
  match d.toNat with
  | 0 => .word .r0
  | 1 => .word .r1
  | 2 => .word .r2
  | 3 => .word .r3
  | 4 => .word .r4
  | 5 => .word .r5
  | 6 => .float .r6
  | _ => .float .r7

/-- The register a 4-bit field names; 10 to 15 name none and raise InvalidRegister (R57, R110). -/
def regOf (n : BitVec 4) : Except MachineError Reg :=
  match n.toNat with
  | 0 => .ok (.gpr (.word .r0))
  | 1 => .ok (.gpr (.word .r1))
  | 2 => .ok (.gpr (.word .r2))
  | 3 => .ok (.gpr (.word .r3))
  | 4 => .ok (.gpr (.word .r4))
  | 5 => .ok (.gpr (.word .r5))
  | 6 => .ok (.gpr (.float .r6))
  | 7 => .ok (.gpr (.float .r7))
  | 8 => .ok .pc
  | 9 => .ok .sp
  | _ => .error .invalidRegister

/-- The value of the right side of a format A instruction (R38, R65): an invalid register number raises first, then a
read that fails. R6 and R7 read directly are floats; every other form gives a word. -/
def rhsValue (s : State) : Rhs → Except MachineError Value
  | .imm i => .ok (.word (sext8 i))
  | .reg n => (regOf n).map (regValue s)
  | .regi n => (regOf n).bind fun r => (memRead s (toaddr (readReg s r))).map .word
  | .memi a =>
    (memRead s (a.toNat : Int)).bind fun p => (memRead s (toaddr p)).map .word

/-- A target whose register field, if it has one, names a register. -/
inductive Place where
  | addr (a : BitVec 10)
  | inReg (r : Reg)
deriving DecidableEq, Repr

/-- The check of a target's register field, made before anything else (R57, R116). -/
def placeOf : Target → Except MachineError Place
  | .mem a => .ok (.addr a)
  | .reg n => (regOf n).map .inReg

/-- The address of a target, read from the registers of this moment; no memory is read (R82, C8). -/
def placeAddr (s : State) : Place → Int
  | .addr a => (a.toNat : Int)
  | .inReg r => toaddr (readReg s r)

end Sys2Proof.Machine
end

