-- ==== Sys2Proof/Machine/Flags.lean ====
section
/-!
DEFINITION. The flag computations: overflow (R71), remainder (R67), the comparison flags (R68), the conditions of the
branches (R84 to R89) and the direct flag operations of INT (R96 to R100).
-/

namespace Sys2Proof.Machine

/-- Register overflow: the exact result is not a signed 16-bit value (R71, D7; log 15). -/
def overflows (t : Int) : Bool := decide (t < -32768) || decide (32767 < t)

/-- Whether the division of `a` by `b` leaves a remainder (R67, C2). -/
def hasRemainder (a b : Int) : Bool := decide (a - idiv a b * b ≠ 0)

/-- O after an integer ADD or DIV whose exact result is `t` (R71). -/
def setOverflow (s : State) (t : Int) : State := s.setO (overflows t)

/-- S and Z after a CMP of two words (R68). -/
def compareWords (s : State) (a b : Word) : State :=
  (s.setS (decide (a.toInt < b.toInt))).setZ (decide (a = b))

/-- S and Z after a CMP with a float left side: open (R70; log 11). -/
def compareFloats (s : State) (a b : FloatWord) : State :=
  (s.setS (Config.flt a b)).setZ (Config.feq a b)

/-- O and R after a float ADD or DIV: open (R70; log 9). -/
def floatFlags (s : State) (op : FloatOp) (a b : FloatWord) : State :=
  (s.setO (Config.floatFlagO op a b s.flagO)).setR (Config.floatFlagR op a b s.flagR)

/-- The condition of a branch (R83 to R89). -/
def condition (s : State) : Branch → Bool
  | .bo => s.flagO
  | .bno => !s.flagO
  | .bz => s.flagZ
  | .bnz => !s.flagZ
  | .bl => s.flagS
  | .bg => !s.flagS

/-- The four flags (R16). -/
inductive Flag where
  | zero
  | overflow
  | remainder
  | sign
deriving DecidableEq, Repr

/-- What INT can do to a flag directly (R96 to R100). -/
inductive FlagOp where
  | set
  | unset
  | invert
deriving DecidableEq, Repr

/-- The new value of a flag. -/
def FlagOp.apply : FlagOp → Bool → Bool
  | .set, _ => true
  | .unset, _ => false
  | .invert, b => !b

/-- A flag operated on, nothing else changed (R96 to R100). -/
def applyFlag (s : State) (op : FlagOp) : Flag → State
  | .zero => s.setZ (op.apply s.flagZ)
  | .overflow => s.setO (op.apply s.flagO)
  | .remainder => s.setR (op.apply s.flagR)
  | .sign => s.setS (op.apply s.flagS)

end Sys2Proof.Machine
end

