-- ==== Sys2Proof/Machine/Arithmetic.lean ====
section
/-!
DEFINITION. ADD, DIV, CMP and NAND (41_arithmetic_logic.md). Each shared operation follows the five steps of R65; a
float left side follows R70.
-/

namespace Sys2Proof.Machine

/-! ### ADD (R66, R70) -/

/-- ADD of a right side value into a general register (R66; float destination R70). -/
def addInto (s : State) (v : Value) : Gpr → State
  | .word r =>
    let t := (s.getWord r).toInt + v.asWord.toInt
    (setOverflow s t).setWord r (wrap16 t)
  | .float r =>
    (floatFlags s .add (s.getFloat r) v.asFloat).setFloat r (Config.fadd (s.getFloat r) v.asFloat)

/-- ADD with any right side. -/
def execAdd (d : BitVec 3) (rhs : Rhs) (s : State) : Host.Outcome State Fault Refusal :=
  complete s ((rhsValue s rhs).map fun v => addInto s v (gprOf d))

/-- ADD, A-imm. -/
def execAddImm (d : BitVec 3) (i : BitVec 8) (s : State) : Host.Outcome State Fault Refusal := execAdd d (.imm i) s

/-- ADD, A-reg. -/
def execAddReg (d : BitVec 3) (n : BitVec 4) (s : State) : Host.Outcome State Fault Refusal := execAdd d (.reg n) s

/-- ADD, A-regi. -/
def execAddRegi (d : BitVec 3) (n : BitVec 4) (s : State) : Host.Outcome State Fault Refusal := execAdd d (.regi n) s

/-- ADD, A-memi. -/
def execAddMemi (d : BitVec 3) (a : BitVec 7) (s : State) : Host.Outcome State Fault Refusal := execAdd d (.memi a) s

/-! ### DIV (R67, R70) -/

/-- DIV of a general register by a right side value (R67; float destination R70). DivideByZero comes before every
write (D9); for a float zero divisor whether it comes is open (log 10). -/
def divInto (s : State) (v : Value) : Gpr → Except MachineError State
  | .word r =>
    let a := (s.getWord r).toInt
    let b := v.asWord.toInt
    if b = 0 then .error .divideByZero
    else .ok (((setOverflow s (idiv a b)).setR (hasRemainder a b)).setWord r (wrap16 (idiv a b)))
  | .float r =>
    let a := s.getFloat r
    let b := v.asFloat
    if floatIsZero b && Config.floatDivZeroRaises a b then .error .divideByZero
    else .ok ((floatFlags s .div a b).setFloat r (Config.fdiv a b))

/-- DIV with any right side. -/
def execDiv (d : BitVec 3) (rhs : Rhs) (s : State) : Host.Outcome State Fault Refusal :=
  complete s ((rhsValue s rhs).bind fun v => divInto s v (gprOf d))

/-- DIV, A-imm. -/
def execDivImm (d : BitVec 3) (i : BitVec 8) (s : State) : Host.Outcome State Fault Refusal := execDiv d (.imm i) s

/-- DIV, A-reg. -/
def execDivReg (d : BitVec 3) (n : BitVec 4) (s : State) : Host.Outcome State Fault Refusal := execDiv d (.reg n) s

/-- DIV, A-regi. -/
def execDivRegi (d : BitVec 3) (n : BitVec 4) (s : State) : Host.Outcome State Fault Refusal := execDiv d (.regi n) s

/-- DIV, A-memi. -/
def execDivMemi (d : BitVec 3) (a : BitVec 7) (s : State) : Host.Outcome State Fault Refusal := execDiv d (.memi a) s

/-! ### CMP (R68, R70) -/

/-- CMP of a general register with a right side value: S and Z, no register (R68; float left side R70). -/
def compareWith (s : State) (v : Value) : Gpr → State
  | .word r => compareWords s (s.getWord r) v.asWord
  | .float r => compareFloats s (s.getFloat r) v.asFloat

/-- CMP with any right side. -/
def execCmp (d : BitVec 3) (rhs : Rhs) (s : State) : Host.Outcome State Fault Refusal :=
  complete s ((rhsValue s rhs).map fun v => compareWith s v (gprOf d))

/-- CMP, A-imm. -/
def execCmpImm (d : BitVec 3) (i : BitVec 8) (s : State) : Host.Outcome State Fault Refusal := execCmp d (.imm i) s

/-- CMP, A-reg. -/
def execCmpReg (d : BitVec 3) (n : BitVec 4) (s : State) : Host.Outcome State Fault Refusal := execCmp d (.reg n) s

/-- CMP, A-regi. -/
def execCmpRegi (d : BitVec 3) (n : BitVec 4) (s : State) : Host.Outcome State Fault Refusal := execCmp d (.regi n) s

/-- CMP, A-memi. -/
def execCmpMemi (d : BitVec 3) (a : BitVec 7) (s : State) : Host.Outcome State Fault Refusal := execCmp d (.memi a) s

/-! ### NAND (R69) -/

/-- NAND of a right side value into a general register; R6 and R7 are read through F2I and written through I2F (R69,
R24). -/
def nandInto (s : State) (v : Value) (g : Gpr) : State :=
  writeGpr s g (~~~(readReg s (.gpr g) &&& v.asWord))

/-- NAND with any right side. -/
def execNand (d : BitVec 3) (rhs : Rhs) (s : State) : Host.Outcome State Fault Refusal :=
  complete s ((rhsValue s rhs).map fun v => nandInto s v (gprOf d))

/-- NAND, A-imm. -/
def execNandImm (d : BitVec 3) (i : BitVec 8) (s : State) : Host.Outcome State Fault Refusal := execNand d (.imm i) s

/-- NAND, A-reg. -/
def execNandReg (d : BitVec 3) (n : BitVec 4) (s : State) : Host.Outcome State Fault Refusal := execNand d (.reg n) s

/-- NAND, A-regi. -/
def execNandRegi (d : BitVec 3) (n : BitVec 4) (s : State) : Host.Outcome State Fault Refusal := execNand d (.regi n) s

/-- NAND, A-memi. -/
def execNandMemi (d : BitVec 3) (a : BitVec 7) (s : State) : Host.Outcome State Fault Refusal := execNand d (.memi a) s

end Sys2Proof.Machine
end

