-- ==== Sys2Proof/Machine/Control.lean ====
section
/-!
DEFINITION. HLT (40_halt.md), JMP and the six conditional branches (44_jump_branch.md).
-/

namespace Sys2Proof.Machine

/-- HLT: the machine is halted; the 12 low bits are ignored (R64). -/
def execHlt (_ignored : BitVec 12) (s : State) : Host.Outcome State Fault Refusal :=
  complete s (.ok (s.setRun .halted))

/-- JMP with either target: pc receives the target, nothing is pushed (R82). -/
def execJmp (t : Target) (s : State) : Host.Outcome State Fault Refusal :=
  complete s ((placeOf t).bind fun p => setpc s (placeAddr s p))

/-- JMP, J-mem. -/
def execJmpMem (a : BitVec 10) (s : State) : Host.Outcome State Fault Refusal := execJmp (.mem a) s

/-- JMP, J-reg. -/
def execJmpReg (n : BitVec 4) (s : State) : Host.Outcome State Fault Refusal := execJmp (.reg n) s

/-- A taken branch to `p`: the return address is pushed when push_ret is set, then pc receives the target (R83). The
push stands when `setpc` then raises, the order of the manual's pseudocode (R113; log 26). -/
def takeBranch (p : Place) (s : State) : Host.Outcome State Fault Refusal :=
  if s.pushRet then
    match push s State.pc with
    | .error e => complete s (.error e)
    | .ok t => complete t (setpc t (placeAddr t p))
  else complete s (setpc s (placeAddr s p))

/-- A conditional branch: the register field is checked whether or not the branch is taken (R83, D14). -/
def execBcc (b : Branch) (t : Target) (s : State) : Host.Outcome State Fault Refusal :=
  match placeOf t with
  | .error e => complete s (.error e)
  | .ok p => if condition s b then takeBranch p s else complete s (.ok s)

/-- BO, J-mem (R84). -/
def execBoMem (a : BitVec 10) (s : State) : Host.Outcome State Fault Refusal := execBcc .bo (.mem a) s

/-- BO, J-reg (R84). -/
def execBoReg (n : BitVec 4) (s : State) : Host.Outcome State Fault Refusal := execBcc .bo (.reg n) s

/-- BNO, J-mem (R85). -/
def execBnoMem (a : BitVec 10) (s : State) : Host.Outcome State Fault Refusal := execBcc .bno (.mem a) s

/-- BNO, J-reg (R85). -/
def execBnoReg (n : BitVec 4) (s : State) : Host.Outcome State Fault Refusal := execBcc .bno (.reg n) s

/-- BL, J-mem (R88). -/
def execBlMem (a : BitVec 10) (s : State) : Host.Outcome State Fault Refusal := execBcc .bl (.mem a) s

/-- BL, J-reg (R88). -/
def execBlReg (n : BitVec 4) (s : State) : Host.Outcome State Fault Refusal := execBcc .bl (.reg n) s

/-- BG, J-mem (R89). -/
def execBgMem (a : BitVec 10) (s : State) : Host.Outcome State Fault Refusal := execBcc .bg (.mem a) s

/-- BG, J-reg (R89). -/
def execBgReg (n : BitVec 4) (s : State) : Host.Outcome State Fault Refusal := execBcc .bg (.reg n) s

/-- BZ, J-mem (R86). -/
def execBzMem (a : BitVec 10) (s : State) : Host.Outcome State Fault Refusal := execBcc .bz (.mem a) s

/-- BZ, J-reg (R86). -/
def execBzReg (n : BitVec 4) (s : State) : Host.Outcome State Fault Refusal := execBcc .bz (.reg n) s

/-- BNZ, J-mem (R87). -/
def execBnzMem (a : BitVec 10) (s : State) : Host.Outcome State Fault Refusal := execBcc .bnz (.mem a) s

/-- BNZ, J-reg (R87). -/
def execBnzReg (n : BitVec 4) (s : State) : Host.Outcome State Fault Refusal := execBcc .bnz (.reg n) s

end Sys2Proof.Machine
end

