-- ==== Sys2Proof/Machine/Interrupt.lean ====
section
/-!
DEFINITION. INT (45_int.md): one instruction whose code selects a task. Each task is complete inside its step (R90).
-/

namespace Sys2Proof.Machine

/-- The tasks of the manual's table of codes (R91 to R104), and `unlisted` for every other code (R105). -/
inductive IntTask where
  | raises (e : MachineError)
  | printReg (g : Gpr)
  | printMem
  | readChar
  | sleep
  | flag (f : Flag) (op : FlagOp)
  | readLine
  | setSp
  | setBp
  | setPushRet (b : Bool)
  | unlisted
deriving DecidableEq, Repr

/-- The task of a code (R91 to R105, the pairings D19; log 20). -/
def intTask (code : Int) : IntTask :=
  match code with
  | -6 => .raises .stackUnderflow
  | -5 => .raises .segfault
  | -4 => .raises .illegalInstruction
  | -3 => .raises .divideByZero
  | -2 => .raises .invalidRegister
  | -1 => .raises .stackOverflow
  | 0 => .printReg (.word .r0)
  | 1 => .printReg (.word .r1)
  | 2 => .printReg (.word .r2)
  | 3 => .printReg (.word .r3)
  | 4 => .printReg (.word .r4)
  | 5 => .printReg (.word .r5)
  | 6 => .printReg (.float .r6)
  | 7 => .printReg (.float .r7)
  | 8 => .printMem
  | 9 => .readChar
  | 10 => .sleep
  | 11 => .flag .zero .set
  | 12 => .flag .zero .unset
  | 13 => .flag .zero .invert
  | 21 => .flag .overflow .set
  | 22 => .flag .overflow .unset
  | 23 => .flag .overflow .invert
  | 31 => .flag .remainder .set
  | 32 => .flag .remainder .unset
  | 33 => .flag .remainder .invert
  | 40 => .readLine
  | 41 => .flag .sign .set
  | 42 => .flag .sign .unset
  | 43 => .flag .sign .invert
  | 60 => .setSp
  | 61 => .setBp
  | 70 => .setPushRet true
  | 71 => .setPushRet false
  | _ => .unlisted

/-- The parameter INT_UNLISTED at its default: the error of a code the table does not list (R105, D18; log 20). -/
def intUnlisted : MachineError := .illegalInstruction

/-- The initialised cells from `lo` to `hi`, both included, in ascending order (R93). -/
def cellsBetween (m : Memory) (lo hi : Nat) : List (Nat × Word) :=
  (List.range' lo (hi + 1 - lo)).filterMap fun a => (m.read a).map fun w => (a, w)

/-- Code 8: print the cells from the address in R0 to the address in R1. With R0 above R1 what is printed is open: a
free value (R93, U24; log 21). -/
def printMemory (s : State) : Except MachineError State :=
  let lo := toaddr (s.getWord .r0)
  let hi := toaddr (s.getWord .r1)
  if oob lo || oob hi then .error .segfault
  else if hi < lo then .ok (s.emit [.printMem (Config.descendingPrint s.draws)]).nextDraw
  else .ok (s.emit [.printMem (cellsBetween s.mem lo.toNat hi.toNat)])

/-- The next character draw of the INPUT oracle: a supplied one, or an opaque one (R94, D22; log 23). -/
def nextChar (s : State) : CharDraw × State :=
  match s.inChars with
  | [] => (Config.charDraw s.draws, s.nextDraw)
  | c :: cs => (c, (s.setInChars cs).nextDraw)

/-- What draw `k` of INT 9 gives R0: the character's code, or at the end of the input a free value (R94, U27; log 24). -/
def charWord (k : Nat) : CharDraw → Word
  | .char c => c.setWidth 16
  | .ended => Config.inputFailure k

/-- Code 9: a character into R0, no echo (R94). -/
def readChar (s : State) : State :=
  (nextChar s).2.setWord .r0 (charWord s.draws (nextChar s).1)

/-- The next line draw of the INPUT oracle: a supplied one, or an opaque one (R99, D22; log 23). -/
def nextLine (s : State) : LineDraw × State :=
  match s.inLines with
  | [] => (Config.lineDraw s.draws, s.nextDraw)
  | l :: ls => (l, (s.setInLines ls).nextDraw)

/-- What draw `k` of INT 40 gives R0: the word the line parses to, or a free value where there is none (R99, U27;
log 24). -/
def lineWord (k : Nat) : LineDraw → Word
  | .parsed _ v => v
  | .unparsed _ => Config.inputFailure k
  | .ended => Config.inputFailure k

/-- The echo of a line that was read (R99). -/
def lineEcho : LineDraw → List OutEvent
  | .parsed text _ => [.echo text]
  | .unparsed text => [.echo text]
  | .ended => []

/-- Code 40: a line echoed, and the word it parses to into R0 (R99). -/
def readLine (s : State) : State :=
  ((nextLine s).2.emit (lineEcho (nextLine s).1)).setWord .r0 (lineWord s.draws (nextLine s).1)

/-- A task performed (R91 to R105). Code 10 sleeps: time is not state (R95, D23; log 25). -/
def runTask (s : State) : IntTask → Except MachineError State
  | .raises e => .error e
  | .printReg g => .ok (s.emit [.printReg g (regValue s (.gpr g))])
  | .printMem => printMemory s
  | .readChar => .ok (readChar s)
  | .sleep => .ok s
  | .flag f op => .ok (applyFlag s op f)
  | .readLine => .ok (readLine s)
  | .setSp => setsp s (toaddr (s.getWord .r4))
  | .setBp => setbp s (toaddr (s.getWord .r4))
  | .setPushRet b => .ok (s.setPushRet b)
  | .unlisted => .error intUnlisted

/-- INT (R90). -/
def execInt (i : BitVec 8) (s : State) : Host.Outcome State Fault Refusal :=
  complete s (runTask s (intTask (sext8 i).toInt))

end Sys2Proof.Machine
end

