-- ==== Sys2Proof/Machine/Moves.lean ====
section
/-!
DEFINITION. LD, ST, MOV and LEA (43_data_movement.md). None writes a flag.
-/

namespace Sys2Proof.Machine

/-- A value copied into a general register: a float into a float register unchanged, otherwise as R24 converts (R80). -/
def moveInto (s : State) (v : Value) : Gpr → State
  | .word r => s.setWord r v.asWord
  | .float r => s.setFloat r v.asFloat

/-- MOV with any right side (R80). -/
def execMov (d : BitVec 3) (rhs : Rhs) (s : State) : Host.Outcome State Fault Refusal :=
  complete s ((rhsValue s rhs).map fun v => moveInto s v (gprOf d))

/-- MOV, A-imm. -/
def execMovImm (d : BitVec 3) (i : BitVec 8) (s : State) : Host.Outcome State Fault Refusal := execMov d (.imm i) s

/-- MOV, A-reg. -/
def execMovReg (d : BitVec 3) (n : BitVec 4) (s : State) : Host.Outcome State Fault Refusal := execMov d (.reg n) s

/-- MOV, A-regi. -/
def execMovRegi (d : BitVec 3) (n : BitVec 4) (s : State) : Host.Outcome State Fault Refusal := execMov d (.regi n) s

/-- MOV, A-memi. -/
def execMovMemi (d : BitVec 3) (a : BitVec 7) (s : State) : Host.Outcome State Fault Refusal := execMov d (.memi a) s

/-- LD: the word at a 9-bit address into a general register (R78). -/
def execLd (d : BitVec 3) (a : BitVec 9) (s : State) : Host.Outcome State Fault Refusal :=
  complete s ((memRead s (a.toNat : Int)).map fun v => writeGpr s (gprOf d) v)

/-- LEA: the 9-bit address itself into a general register; memory is not touched (R81). -/
def execLea (d : BitVec 3) (a : BitVec 9) (s : State) : Host.Outcome State Fault Refusal :=
  complete s (.ok (writeGpr s (gprOf d) (a.setWidth 16)))

/-- ST, S-mem: a general register into the cell at an 8-bit address (R79). -/
def execStMem (a : BitVec 8) (r : BitVec 3) (s : State) : Host.Outcome State Fault Refusal :=
  complete s (memWrite s (a.toNat : Int) (readReg s (.gpr (gprOf r))))

/-- ST, S-regi: a general register into the cell whose address a register holds (R79). -/
def execStRegi (n : BitVec 4) (r : BitVec 3) (s : State) : Host.Outcome State Fault Refusal :=
  complete s ((regOf n).bind fun q => memWrite s (toaddr (readReg s q)) (readReg s (.gpr (gprOf r))))

end Sys2Proof.Machine
end

