-- ==== Sys2Proof/Machine/Stack.lean ====
section
/-!
DEFINITION. POP, RET and PUSH (42_stack.md), over the primitives `push` and `pop` of Ops.
-/

namespace Sys2Proof.Machine

/-- POP, P-reg: the word at sp into a register (R75). POP R9 follows the literal order of R74 (D17; log 19). -/
def execPopReg (n : BitVec 4) (s : State) : Host.Outcome State Fault Refusal :=
  complete s ((regOf n).bind fun r => pop s fun t v => writeReg t r v)

/-- POP, P-mem: the word at sp into the cell at an 11-bit address (R75). -/
def execPopMem (a : BitVec 11) (s : State) : Host.Outcome State Fault Refusal :=
  complete s (pop s fun t v => memWrite t (a.toNat : Int) v)

/-- RET: the word at sp into pc (R76). -/
def execRet (s : State) : Host.Outcome State Fault Refusal :=
  complete s (pop s fun t v => writeReg t .pc v)

/-- PUSH, U-imm: an immediate onto the stack (R77). -/
def execPushImm (i : BitVec 8) (s : State) : Host.Outcome State Fault Refusal :=
  complete s (push s fun _ => sext8 i)

/-- PUSH, U-reg: a register onto the stack, read after sp has moved (R77, D17). -/
def execPushReg (n : BitVec 4) (s : State) : Host.Outcome State Fault Refusal :=
  complete s ((regOf n).bind fun r => push s fun t => readReg t r)

end Sys2Proof.Machine
end

