-- ==== Sys2Proof/Machine/Dispatch.lean ====
section
/-!
DEFINITION. The meaning of every instruction: one arm per constructor of `Instr`, step 5 of the cycle (10_state.md R22).
-/

namespace Sys2Proof.Machine

/-- The execution of a decoded instruction; `s` is the state after the fetch, pc already incremented (R12, R22). -/
def exec (i : Instr) (s : State) : Host.Outcome State Fault Refusal :=
  match i with
  | .hlt x => Sys2Proof.Machine.execHlt x s
  | .addImm d k => Sys2Proof.Machine.execAddImm d k s
  | .addReg d n => Sys2Proof.Machine.execAddReg d n s
  | .addRegi d n => Sys2Proof.Machine.execAddRegi d n s
  | .addMemi d a => Sys2Proof.Machine.execAddMemi d a s
  | .divImm d k => Sys2Proof.Machine.execDivImm d k s
  | .divReg d n => Sys2Proof.Machine.execDivReg d n s
  | .divRegi d n => Sys2Proof.Machine.execDivRegi d n s
  | .divMemi d a => Sys2Proof.Machine.execDivMemi d a s
  | .cmpImm d k => Sys2Proof.Machine.execCmpImm d k s
  | .cmpReg d n => Sys2Proof.Machine.execCmpReg d n s
  | .cmpRegi d n => Sys2Proof.Machine.execCmpRegi d n s
  | .cmpMemi d a => Sys2Proof.Machine.execCmpMemi d a s
  | .nandImm d k => Sys2Proof.Machine.execNandImm d k s
  | .nandReg d n => Sys2Proof.Machine.execNandReg d n s
  | .nandRegi d n => Sys2Proof.Machine.execNandRegi d n s
  | .nandMemi d a => Sys2Proof.Machine.execNandMemi d a s
  | .movImm d k => Sys2Proof.Machine.execMovImm d k s
  | .movReg d n => Sys2Proof.Machine.execMovReg d n s
  | .movRegi d n => Sys2Proof.Machine.execMovRegi d n s
  | .movMemi d a => Sys2Proof.Machine.execMovMemi d a s
  | .ld d a => Sys2Proof.Machine.execLd d a s
  | .lea d a => Sys2Proof.Machine.execLea d a s
  | .stMem a r => Sys2Proof.Machine.execStMem a r s
  | .stRegi n r => Sys2Proof.Machine.execStRegi n r s
  | .popReg n => Sys2Proof.Machine.execPopReg n s
  | .popMem a => Sys2Proof.Machine.execPopMem a s
  | .pushImm k => Sys2Proof.Machine.execPushImm k s
  | .pushReg n => Sys2Proof.Machine.execPushReg n s
  | .int k => Sys2Proof.Machine.execInt k s
  | .jmpMem a => Sys2Proof.Machine.execJmpMem a s
  | .jmpReg n => Sys2Proof.Machine.execJmpReg n s
  | .ret => Sys2Proof.Machine.execRet s
  | .boMem a => Sys2Proof.Machine.execBoMem a s
  | .boReg n => Sys2Proof.Machine.execBoReg n s
  | .bnoMem a => Sys2Proof.Machine.execBnoMem a s
  | .bnoReg n => Sys2Proof.Machine.execBnoReg n s
  | .blMem a => Sys2Proof.Machine.execBlMem a s
  | .blReg n => Sys2Proof.Machine.execBlReg n s
  | .bgMem a => Sys2Proof.Machine.execBgMem a s
  | .bgReg n => Sys2Proof.Machine.execBgReg n s
  | .bzMem a => Sys2Proof.Machine.execBzMem a s
  | .bzReg n => Sys2Proof.Machine.execBzReg n s
  | .bnzMem a => Sys2Proof.Machine.execBnzMem a s
  | .bnzReg n => Sys2Proof.Machine.execBnzReg n s

end Sys2Proof.Machine
end

