-- ==== Sys2Proof/Machine/Step.lean ====
section
/-!
DEFINITION. The instruction cycle (10_state.md R22).
-/

namespace Sys2Proof.Machine

/-- Steps 4 and 5 of R22 on the state after a fetch: ir is decoded; a word that is no instruction raises
IllegalInstruction (R59, R108), an instruction is executed. -/
def execFetched (s : State) : Host.Outcome State Fault Refusal :=
  match decode s.ir with
  | .error _ => complete s (.error .illegalInstruction)
  | .ok i => exec i s

/-- One step of the machine (R22). A machine that is halted or crashed takes none (R19). -/
def step (s : State) : Host.Outcome State Fault Refusal :=
  match s.run with
  | .halted => .fault .halted
  | .crashed e => .fault (.crashed e)
  | .running =>
    match fetch s with
    | .error t => .next t
    | .ok t => execFetched t

/-- `s` with the table word `w` of `nbits` bits stored where the next step fetches, the cell at pc, and running, which
the fetch needs (logs 6 and 37). -/
def State.withFetchWord (s : State) (nbits w : Nat) : State :=
  (s.setMem (s.mem.write s.pc.toNat (BitVec.ofNat 16 (w % 2 ^ nbits)))).setRun .running

end Sys2Proof.Machine
end

