-- ==== Sys2Proof/Machine/Loader.lean ====
section
/-!
DEFINITION. The ROM file and its load (30_encoding.md R62, R63; 70_reset_and_hazards.md R123).
-/

namespace Sys2Proof.Machine

/-- Why a ROM is malformed and gives no run (R123, U33). -/
inductive RomError where
  /-- An odd number of bytes (step 1). -/
  | oddLength
  /-- Fewer than the four bytes of the header (step 1). -/
  | tooShort
  /-- The second word is not 0x02XX (step 4). -/
  | noStartWord
  /-- The body does not fit between START and the end of the address space (step 6). -/
  | tooLong
deriving DecidableEq, Repr

/-- The big-endian words of a sequence of bytes; `none` for an odd number of them (R32, R123 steps 1 and 2). -/
def romWords : List Byte → Option (List Word)
  | [] => some []
  | [_] => none
  | hi :: lo :: rest => (romWords rest).map ((hi ++ lo) :: ·)

/-- The words placed contiguously from `start`, every other cell NULL (R123 steps 5 and 6). -/
def romImage : Nat → List Word → Memory
  | _, [] => []
  | a, w :: ws => (a, w) :: romImage (a + 1) ws

/-- A ROM loaded: the version word has no effect, the second word gives START, the rest is the program (R62, R123, D25,
D33; log 31). -/
def loadRom (rom : List Byte) : Except RomError State :=
  match romWords rom with
  | none => .error .oddLength
  | some (_version :: startWord :: body) =>
    if startWord.extractLsb' 8 8 ≠ 0x02#8 then .error .noStartWord
    else
      let start : Word := (startWord.extractLsb' 0 8).setWidth 16
      if 65536 < start.toNat + body.length then .error .tooLong
      else .ok (State.resetAt start (romImage start.toNat body))
  | some _ => .error .tooShort

end Sys2Proof.Machine
end

