-- ==== Sys2Proof/Machine/Screen.lean ====
section
/-!
DEFINITION. The screen, a function of memory (20_memory.md R35, R42).
-/

namespace Sys2Proof.Machine

/-- Whether an address is video memory, 0x00FF to 0x09C8 (R35, C10, D29; log 32). -/
def isVideo (a : Nat) : Bool := decide (Config.videoBase ≤ a) && decide (a < Config.videoEnd)

/-- The cell shown at a row and a column, row by row (R35, D29; log 32). -/
def screenCell (row : Fin Config.screenRows) (col : Fin Config.screenCols) : Nat :=
  Config.videoBase + Config.screenCols * row + col

/-- The character code shown at a row and a column: the low 8 bits of the cell, a space for a NULL cell (R35). -/
def screenCode (m : Memory) (row : Fin Config.screenRows) (col : Fin Config.screenCols) : Byte :=
  match m.read (screenCell row col) with
  | none => 0x20#8
  | some w => w.extractLsb' 0 8

end Sys2Proof.Machine
end

