-- ==== Sys2Proof/Safety.lean ====
section
/-!
DEFINITION. The terms the statements use: the invariant of a state, what "unchanged" means, and the spec's own wording
of the directions of the stack, the branch conditions and the fields that can be invalid.
-/

namespace Sys2Proof.Machine

/-- The invariant every step keeps: the memory is in its canonical form (R25; log 1). -/
def State.Inv (s : State) : Prop := s.mem.wf

/-- A word is seen by the fetch of `s` and the pc can move past it: steps 1 and 3 of R22 raise nothing. -/
def State.fetches (s : State) (w : Word) : Prop :=
  s.run = .running ∧ s.mem.read s.pc.toNat = some w ∧ s.pc ≠ 0xFFFF#16

/-! ### What is unchanged from `s` to `t` -/

/-- Every general register but `g`. -/
def State.sameGprsBut (s t : State) (g : Gpr) : Prop :=
  (∀ q, Gpr.word q ≠ g → t.getWord q = s.getWord q) ∧ ∀ q, Gpr.float q ≠ g → t.getFloat q = s.getFloat q

/-- Every general register. -/
def State.sameGprs (s t : State) : Prop :=
  (∀ q, t.getWord q = s.getWord q) ∧ ∀ q, t.getFloat q = s.getFloat q

/-- The four flags. -/
def State.sameFlags (s t : State) : Prop :=
  t.flagZ = s.flagZ ∧ t.flagS = s.flagS ∧ t.flagO = s.flagO ∧ t.flagR = s.flagR

/-- bp, ir, push_ret, the run state and the console: what only INT, HLT, a fetch or an error changes. -/
def State.sameSystem (s t : State) : Prop :=
  t.bp = s.bp ∧ t.ir = s.ir ∧ t.pushRet = s.pushRet ∧ t.run = s.run ∧
  t.out = s.out ∧ t.inChars = s.inChars ∧ t.inLines = s.inLines ∧ t.draws = s.draws

/-- pc and sp. -/
def State.samePointers (s t : State) : Prop := t.pc = s.pc ∧ t.sp = s.sp

/-- Every cell of memory but the one at `a`. -/
def State.sameCellsBut (s t : State) (a : Nat) : Prop := ∀ b, b ≠ a → t.mem.read b = s.mem.read b

/-- The four flags replaced. -/
def State.withFlags (s : State) (z n o r : Bool) : State :=
  { s with flagZ := z, flagS := n, flagO := o, flagR := r }

/-- `s` in the crash state with error `e`, everything else as it was (R113). -/
def State.crashedWith (s : State) (e : MachineError) : State := { s with run := .crashed e }

/-! ### The spec's wording -/

/-- A push moves sp to `p`: up when sp is above bp, down when it is below, not at all when they are equal, and never out
of the address space (R72, R73). -/
def State.pushesTo (s : State) (p : Word) : Prop :=
  (s.bp.toNat < s.sp.toNat ∧ p.toNat = s.sp.toNat + 1) ∨
  (s.sp.toNat < s.bp.toNat ∧ p.toNat + 1 = s.sp.toNat) ∨
  (s.sp = s.bp ∧ p = s.sp)

/-- A push would move sp out of the address space (R111). -/
def State.pushOverflows (s : State) : Prop :=
  (s.bp.toNat < s.sp.toNat ∧ s.sp.toNat = 65535) ∨ (s.sp.toNat < s.bp.toNat ∧ s.sp.toNat = 0)

/-- A pop moves the stack pointer `q` to `p`, one step toward `bp` (R72, R74). -/
def popsTo (bp q p : Word) : Prop :=
  (bp.toNat < q.toNat ∧ p.toNat + 1 = q.toNat) ∨
  (q.toNat < bp.toNat ∧ p.toNat = q.toNat + 1) ∨
  (q = bp ∧ p = q)

/-- When a conditional branch is taken (R84 to R89). -/
def taken (s : State) : Branch → Prop
  | .bo => s.flagO = true
  | .bno => s.flagO = false
  | .bz => s.flagZ = true
  | .bnz => s.flagZ = false
  | .bl => s.flagS = true
  | .bg => s.flagS = false

/-- The 34 codes of the manual's table of INT (R105). -/
def listedCodes : List Int :=
  [-6, -5, -4, -3, -2, -1, 0, 1, 2, 3, 4, 5, 6, 7, 8, 9, 10, 11, 12, 13, 21, 22, 23, 31, 32, 33, 40, 41, 42, 43, 60, 61,
    70, 71]

/-- The 4-bit register field of an instruction, if it has one (R57, R110). -/
def regField : Instr → Option (BitVec 4)
  | .addReg _ n => some n
  | .addRegi _ n => some n
  | .divReg _ n => some n
  | .divRegi _ n => some n
  | .cmpReg _ n => some n
  | .cmpRegi _ n => some n
  | .nandReg _ n => some n
  | .nandRegi _ n => some n
  | .movReg _ n => some n
  | .movRegi _ n => some n
  | .stRegi n _ => some n
  | .popReg n => some n
  | .pushReg n => some n
  | .jmpReg n => some n
  | .boReg n => some n
  | .bnoReg n => some n
  | .blReg n => some n
  | .bgReg n => some n
  | .bzReg n => some n
  | .bnzReg n => some n
  | _ => none

/-- The bytes of a sequence of words as a ROM file holds them, big-endian (R32, R63). -/
def romBytes : List Word → List Byte
  | [] => []
  | w :: ws => w.extractLsb' 8 8 :: w.extractLsb' 0 8 :: romBytes ws

end Sys2Proof.Machine
end

