-- ==== Sys2Proof/Certificates/Slice0/Obligations.lean ====
section
/-!
DEFINITION. The statements for the provers, in the order of OBLIGATIONS.json. `exec i s` is step 5 of the cycle on the
state `s` after the fetch. A docstring names, for each statement, the constructors whose completion it concludes, and
the decisions of the spec (D) or the log entries (log) it rests on.
-/

open Sys2Proof Sys2Proof.Machine

/-! ### Encoding -/

/-- Words written out from the format tables decode to the instructions they stand for (95_test_vectors.md sections 1.1
and 2; the words are the spec's derivations). -/
def Obligations.WrittenWordsDecode : Prop :=
  decodeTableWord 16 0x0ABC = some (.hlt 0xABC#12) ∧
  decodeTableWord 16 0x1B03 = some (.addImm 5#3 3#8) ∧
  decodeTableWord 16 0x4041 = some (.divRegi 0#3 1#4) ∧
  decodeTableWord 16 0xA321 = some (.cmpImm 1#3 33#8) ∧
  decodeTableWord 16 0xB0A0 = some (.nandMemi 0#3 0x20#7) ∧
  decodeTableWord 16 0xE604 = some (.movReg 3#3 4#4) ∧
  decodeTableWord 16 0x6840 = some (.ld 4#3 0x40#9) ∧
  decodeTableWord 16 0xF8FF = some (.lea 4#3 0xFF#9) ∧
  decodeTableWord 16 0x722A = some (.stMem 0x45#8 2#3) ∧
  decodeTableWord 16 0x7880 = some (.stRegi 1#4 0#3) ∧
  decodeTableWord 16 0x3845 = some (.popMem 0x45#11) ∧
  decodeTableWord 16 0xC104 = some (.pushImm 4#8) ∧
  decodeTableWord 16 0xD107 = some (.int 7#8) ∧
  decodeTableWord 16 0x806A = some (.jmpMem 0x6A#10) ∧
  decodeTableWord 16 0x5003 = some (.blMem 3#10) ∧
  decodeTableWord 16 0x5000 = some .ret ∧
  decodeTableWord 16 0x8800 = none

/-- R54: every word with opcode 0000 is HLT whatever its low bits, 0x5000 and no other word is RET, and no word is BL to
address 0 in memory form. -/
def Obligations.HaltAndReturnEncodings : Prop :=
  (∀ x : BitVec 12, decode (0b0000#4 ++ x) = .ok (.hlt x)) ∧
  (∀ w : Word, w.toNat ≤ 0x0FFF ↔ ∃ x, decode w = .ok (.hlt x)) ∧
  (∀ w : Word, decode w = .ok .ret ↔ w = 0b0101000000000000#16) ∧
  (0b0101#4 ++ 0#1 ++ 0#1 ++ 0#10 = (0x5000#16 : Word)) ∧
  ∀ (w : Word) (a : BitVec 10), decode w = .ok (.blMem a) → a ≠ 0#10

/-- R48: every word with opcode 0110 is LD and every word with opcode 1111 is LEA, with the register in bits 11:9 and
the 9-bit address in bits 8:0. -/
def Obligations.LoadFormatsDecode : Prop :=
  ∀ (d : BitVec 3) (a : BitVec 9),
    decode (0b0110#4 ++ d ++ a) = .ok (.ld d a) ∧ decode (0b1111#4 ++ d ++ a) = .ok (.lea d a)

/-- Decoding the word of any well-formed instruction gives the instruction back, with every operand. -/
def Obligations.DecodeOfEncode : Prop :=
  ∀ i : Instr, i.wellFormed = true → decode (encode i) = .ok i

/-- A word that decodes is the word of the instruction it decodes to, which is well formed: each word has one meaning. -/
def Obligations.EncodeOfDecode : Prop :=
  ∀ (w : Word) (i : Instr), decode w = .ok i → encode i = w ∧ i.wellFormed = true

/-- The words that are no instruction are those of the seven cases of R59 and no others (the spec's decisions D12 and
D13; log 28). -/
def Obligations.IllegalWordsAreTheSevenCases : Prop :=
  ∀ w : Word, (∃ e, decode w = .error e) ↔
    w.extractLsb' 11 5 = 0b10001#5 ∨
    (w.extractLsb' 12 4 ∈ [0b0001#4, 0b0100#4, 0b1010#4, 0b1011#4, 0b1110#4] ∧ w.extractLsb' 7 2 = 0b00#2 ∧
      w.extractLsb' 4 3 ≠ 0b000#3 ∧ w.extractLsb' 4 3 ≠ 0b100#3) ∨
    (w.extractLsb' 11 5 = 0b01111#5 ∧ w.extractLsb' 3 4 ≠ 0#4) ∨
    (w.extractLsb' 11 5 = 0b00110#5 ∧ w.extractLsb' 4 7 ≠ 0#7) ∨
    (w.extractLsb' 12 4 = 0b1100#4 ∧
      (w.extractLsb' 9 3 ≠ 0#3 ∨ w.extractLsb' 8 1 = 0#1 ∧ w.extractLsb' 4 4 ≠ 0#4)) ∨
    (w.extractLsb' 12 4 = 0b1101#4 ∧ w.extractLsb' 8 4 ≠ 0b0001#4) ∨
    (w.extractLsb' 12 4 ∈ [0b0010#4, 0b0101#4, 0b1001#4, 0b1000#4] ∧ w.extractLsb' 10 1 = 1#1 ∧
      w.extractLsb' 4 6 ≠ 0#6)

/-! ### The cycle -/

/-- What reset leaves, where R23 gives a value: pc 0x64, sp and bp 0x63, push_ret true, Running, every cell NULL, no
output (D25 and D26 for the reading of the first three). -/
def Obligations.ResetValues : Prop :=
  State.reset.pc = 0x0064#16 ∧ State.reset.sp = 0x0063#16 ∧ State.reset.bp = 0x0063#16 ∧
  State.reset.pushRet = true ∧ State.reset.run = .running ∧ (∀ a, State.reset.mem.read a = none) ∧
  State.reset.out = []

/-- A step whose fetch raises nothing and whose word decodes to `i` is `exec i` on the state with the word in ir and pc
moved past it (R22; the order is the spec's derivation, D1). -/
def Obligations.StepRunsTheDecodedInstruction : Prop :=
  ∀ (s : State) (w : Word) (i : Instr), s.fetches w → decode w = .ok i →
    step s = exec i { s with ir := w, pc := s.pc + 1 }

/-- When the fetch or the decoding raises, the step crashes: a NULL cell at pc and a pc of 0xFFFF are Segfaults, a word
that is no instruction is an IllegalInstruction (the spec's decisions D2, D3, D12, D13; logs 27 and 28). -/
def Obligations.StepErrorsOfFetchAndDecode : Prop :=
  ∀ s : State, s.run = .running →
    (s.mem.read s.pc.toNat = none → step s = .next (s.crashedWith .segfault)) ∧
    (∀ w, s.mem.read s.pc.toNat = some w → s.pc = 0xFFFF#16 →
      step s = .next (({ s with ir := w } : State).crashedWith .segfault)) ∧
    (∀ w e, s.mem.read s.pc.toNat = some w → s.pc ≠ 0xFFFF#16 → decode w = .error e →
      step s = .next (({ s with ir := w, pc := s.pc + 1 } : State).crashedWith .illegalInstruction))

/-- Exactly the running states step; Halted is entered by HLT alone, Crashed by every error, and neither is left (R19; that
EVERY running machine steps is the model's choice to run what the spec refuses, logs 8 to 12, 21, 24). -/
def Obligations.OnlyRunningMachinesStep : Prop :=
  (∀ s : State, (∃ t, step s = .next t) ↔ s.run = .running) ∧
  (∀ (s t : State) (i : Instr), s.run = .running → exec i s = .next t →
    (t.run = .halted ↔ ∃ x, i = .hlt x)) ∧
  (∀ (s : State) (e : MachineError), (raise e s).run = .crashed e) ∧
  (∀ s : State, s.run = .halted → step s = .fault .halted) ∧
  ∀ (s : State) (e : MachineError), s.run = .crashed e → step s = .fault (.crashed e)

/-- Every step keeps the memory in its canonical form (the form is the model's choice, log 1). -/
def Obligations.StepKeepsMemoryCanonical : Prop :=
  ∀ s t : State, s.Inv → step s = .next t → t.Inv

/-- The memory after reset is in its canonical form (the form is the model's choice, log 1). -/
def Obligations.ResetMemoryIsCanonical : Prop := State.reset.Inv

/-- Every instruction answers a next state, in every state: no meaning ends in a fault or a refusal (an error is a next
state, R113; that the open float and input cases run too is the model's choice, logs 8 to 12, 21, 23, 24). -/
def Obligations.EveryInstructionHasANextState : Prop :=
  ∀ (i : Instr) (s : State), ∃ t, exec i s = .next t

/-! ### Operands -/

/-- R38: the value of each form of right side, and when reading it is a Segfault (the spec's decisions
D5 for immediates and D6 for addresses, logs 13 and 14; R6 and R7 as an address are read through the open F2I, the
model's free value, D24, log 12). -/
def Obligations.RightSideValues : Prop :=
  ∀ s : State,
    (∀ i, rhsValue s (.imm i) = .ok (.word (i.signExtend 16))) ∧
    (∀ n r, regOf n = .ok r → rhsValue s (.reg n) = .ok (regValue s r)) ∧
    (∀ n r w, regOf n = .ok r → (readReg s r).msb = false → s.mem.read (readReg s r).toNat = some w →
      rhsValue s (.regi n) = .ok (.word w)) ∧
    (∀ n r, regOf n = .ok r → ((readReg s r).msb = true ∨ s.mem.read (readReg s r).toNat = none) →
      rhsValue s (.regi n) = .error .segfault) ∧
    (∀ a p w, s.mem.read a.toNat = some p → p.msb = false → s.mem.read p.toNat = some w →
      rhsValue s (.memi a) = .ok (.word w)) ∧
    (∀ a, s.mem.read a.toNat = none → rhsValue s (.memi a) = .error .segfault) ∧
    ∀ a p, s.mem.read a.toNat = some p → (p.msb = true ∨ s.mem.read p.toNat = none) →
      rhsValue s (.memi a) = .error .segfault

/-- An ADD, DIV, CMP, NAND or MOV whose right side raises an error crashes with it and changes nothing else (order of
checks: the spec's decision D30, log 30; an address in R6 or R7 is read through the open F2I, D24, log 12). -/
def Obligations.RightSideErrorsCrash : Prop :=
  ∀ (f : BitVec 3 → Rhs → Instr) (d : BitVec 3) (rhs : Rhs) (s : State) (e : MachineError),
    f ∈ [Instr.add, Instr.div, Instr.cmp, Instr.nand, Instr.mov] → rhsValue s rhs = .error e →
    exec (f d rhs) s = .next (s.crashedWith e)

/-- A 4-bit register field of 10 to 15 crashes with InvalidRegister before anything else happens, for a branch whether
or not it is taken (the spec's decision D14; log 28). -/
def Obligations.InvalidRegisterFieldsCrash : Prop :=
  ∀ (i : Instr) (n : BitVec 4) (s : State), regField i = some n → 10 ≤ n.toNat →
    exec i s = .next (s.crashedWith .invalidRegister)

/-- What each register number reads as, seen through MOV into R0: R0 to R5 their words, 8 the incremented pc, 9 sp, and
6 and 7 the word that the open F2I gives for R6 and for R7 (R11, R24; F2I is the model's free value, D24, log 12). Covers
movReg with the destination R0. -/
def Obligations.MovReadsNumberedRegisters : Prop :=
  ∀ s : State,
    exec (.movReg 0#3 0#4) s = .next s ∧
    exec (.movReg 0#3 1#4) s = .next { s with r0 := s.r1 } ∧
    exec (.movReg 0#3 2#4) s = .next { s with r0 := s.r2 } ∧
    exec (.movReg 0#3 3#4) s = .next { s with r0 := s.r3 } ∧
    exec (.movReg 0#3 4#4) s = .next { s with r0 := s.r4 } ∧
    exec (.movReg 0#3 5#4) s = .next { s with r0 := s.r5 } ∧
    exec (.movReg 0#3 6#4) s = .next { s with r0 := Config.f2i s.r6 } ∧
    exec (.movReg 0#3 7#4) s = .next { s with r0 := Config.f2i s.r7 } ∧
    exec (.movReg 0#3 8#4) s = .next { s with r0 := s.pc } ∧
    exec (.movReg 0#3 9#4) s = .next { s with r0 := s.sp }

/-- What the float cast I2F is: for a word other than 0, sign, exponent and significand of the binary32 pattern stand
for exactly the signed value; 0 is the pattern of all zeros (the format is the spec's general knowledge, D24; log 7). -/
def Obligations.FloatCastIsExact : Prop :=
  i2f 0#16 = 0#32 ∧
  ∀ w : Word, w ≠ 0#16 →
    let f := i2f w
    let e := (f.extractLsb' 23 8).toNat
    (f.msb = true ↔ w.toInt < 0) ∧ 127 ≤ e ∧ e ≤ 142 ∧
    (2 ^ 23 + (f.extractLsb' 0 23).toNat) * 2 ^ (e - 127) = w.toInt.natAbs * 2 ^ 23

/-! ### ADD, DIV, CMP, NAND, MOV -/

/-- ADD into R0 to R5: the wrapped sum, O set exactly on signed overflow, and nothing else changes. Covers addImm,
addReg, addRegi, addMemi (two's complement D4, O_POLICY D7; logs 13, 15; a source R6 or R7, or an address in one, is the
word of the open F2I, the model's free value, D24, log 12). -/
def Obligations.AddIntoWordRegister : Prop :=
  ∀ (d : BitVec 3) (rhs : Rhs) (s : State) (r : WordReg) (v : Value),
    gprOf d = .word r → rhsValue s rhs = .ok v →
    ∃ t, exec (Instr.add d rhs) s = .next t ∧
      t.getWord r = s.getWord r + v.asWord ∧
      (t.flagO = true ↔ (t.getWord r).toInt ≠ (s.getWord r).toInt + v.asWord.toInt) ∧
      t.flagZ = s.flagZ ∧ t.flagS = s.flagS ∧ t.flagR = s.flagR ∧
      s.sameGprsBut t (.word r) ∧ s.samePointers t ∧ s.sameSystem t ∧ t.mem = s.mem

/-- DIV of R0 to R5: by a value other than 0, the quotient truncated toward zero, R set exactly when there is a
remainder, O exactly for -32768 / -1, and nothing else changes; by 0, a crash with DivideByZero that writes nothing.
Covers divImm, divReg, divRegi, divMemi (IDIV D8, O_POLICY D7, the sense of R C2, DivideByZero D9; logs 15, 16,
36; a source R6 or R7, or an address in one, is the word of the open F2I, the model's free value, D24, log 12). -/
def Obligations.DivOfWordRegister : Prop :=
  ∀ (d : BitVec 3) (rhs : Rhs) (s : State) (r : WordReg) (v : Value),
    gprOf d = .word r → rhsValue s rhs = .ok v →
    (v.asWord ≠ 0#16 → ∃ t, exec (Instr.div d rhs) s = .next t ∧
      t.getWord r = (s.getWord r).sdiv v.asWord ∧
      (t.flagR = true ↔ (s.getWord r).srem v.asWord ≠ 0#16) ∧
      (t.flagO = true ↔ s.getWord r = 0x8000#16 ∧ v.asWord = 0xFFFF#16) ∧
      t.flagZ = s.flagZ ∧ t.flagS = s.flagS ∧
      s.sameGprsBut t (.word r) ∧ s.samePointers t ∧ s.sameSystem t ∧ t.mem = s.mem) ∧
    (v.asWord = 0#16 → exec (Instr.div d rhs) s = .next (s.crashedWith .divideByZero))

/-- ADD and DIV into R6 or R7 run: the result is the open FADD or FDIV of the float and the right side, a word right
side cast to a float first; O and R are free; nothing else changes. For a zero divisor of either sign DIV does that or
crashes with DivideByZero, which is open. Covers the float destination of addImm, addReg, addRegi, addMemi, divImm,
divReg, divRegi, divMemi (D24; logs 8, 9, 10). -/
def Obligations.FloatArithmeticRuns : Prop :=
  ∀ (d : BitVec 3) (rhs : Rhs) (s : State) (r : FloatReg) (v : Value) (b : FloatWord),
    gprOf d = .float r → rhsValue s rhs = .ok v →
    (v = .float b ∨ ∃ w, v = .word w ∧ b = i2f w) →
    (∃ o x, exec (Instr.add d rhs) s =
      .next (({ s with flagO := o, flagR := x } : State).setFloat r (Config.fadd (s.getFloat r) b))) ∧
    ((∃ o x, exec (Instr.div d rhs) s =
      .next (({ s with flagO := o, flagR := x } : State).setFloat r (Config.fdiv (s.getFloat r) b))) ∨
    (b.extractLsb' 0 31 = 0#31 ∧ exec (Instr.div d rhs) s = .next (s.crashedWith .divideByZero)))

/-- CMP of R0 to R5: Z exactly on equality, S exactly on signed less than; CMP of R6 or R7: Z and S are free; nothing
else changes. Covers cmpImm, cmpReg, cmpRegi, cmpMemi (signed comparison D11, log 36; float D24, log 11; R6 or R7
read as a word is the open F2I, log 12). -/
def Obligations.CompareWritesZeroAndSign : Prop :=
  ∀ (d : BitVec 3) (rhs : Rhs) (s : State) (v : Value), rhsValue s rhs = .ok v →
    (∀ r, gprOf d = .word r → exec (Instr.cmp d rhs) s =
      .next { s with flagZ := s.getWord r == v.asWord, flagS := (s.getWord r).slt v.asWord }) ∧
    ∀ r, gprOf d = .float r → ∃ z n, exec (Instr.cmp d rhs) s = .next { s with flagZ := z, flagS := n }

/-- NAND into R0 to R5, bit by bit, and into R6 or R7 through the open F2I and the cast; no flag is written and nothing
else changes. Covers nandImm, nandReg, nandRegi, nandMemi (flags D35; float D24, log 12). -/
def Obligations.NandIntoRegister : Prop :=
  ∀ (d : BitVec 3) (rhs : Rhs) (s : State) (v : Value), rhsValue s rhs = .ok v →
    (∀ r, gprOf d = .word r →
      ∃ t, exec (Instr.nand d rhs) s = .next t ∧
        (∀ k < 16, (t.getWord r).getLsbD k = !((s.getWord r).getLsbD k && v.asWord.getLsbD k)) ∧
        s.sameGprsBut t (.word r) ∧ s.sameFlags t ∧ s.samePointers t ∧ s.sameSystem t ∧ t.mem = s.mem) ∧
    (∀ r, gprOf d = .float r →
      exec (Instr.nand d rhs) s =
        .next (s.setFloat r (i2f (~~~(Config.f2i (s.getFloat r) &&& v.asWord)))))

/-- MOV: R0 to R5 receive the word, R6 and R7 a float unchanged or a word cast, and nothing else changes. Covers movImm,
movReg, movRegi, movMemi (casts D24, logs 7 and 12). -/
def Obligations.MoveIntoRegister : Prop :=
  ∀ (d : BitVec 3) (rhs : Rhs) (s : State) (v : Value), rhsValue s rhs = .ok v →
    ∃ t, exec (Instr.mov d rhs) s = .next t ∧
      (∀ r w, gprOf d = .word r → v = .word w → t.getWord r = w) ∧
      (∀ r f, gprOf d = .word r → v = .float f → t.getWord r = Config.f2i f) ∧
      (∀ r f, gprOf d = .float r → v = .float f → t.getFloat r = f) ∧
      (∀ r w, gprOf d = .float r → v = .word w → t.getFloat r = i2f w) ∧
      s.sameGprsBut t (gprOf d) ∧ s.sameFlags t ∧ s.samePointers t ∧ s.sameSystem t ∧ t.mem = s.mem

/-! ### LD, LEA, ST -/

/-- LD: an initialised cell goes into the register, R6 and R7 by the cast; a NULL cell crashes with Segfault; nothing
else changes. Covers ld (the spec's decisions: cast D24, no flag D35; logs 7, 38). -/
def Obligations.LoadReadsTheCell : Prop :=
  ∀ (d : BitVec 3) (a : BitVec 9) (s : State),
    (∀ w, s.mem.read a.toNat = some w →
      ∃ t, exec (.ld d a) s = .next t ∧
        (∀ r, gprOf d = .word r → t.getWord r = w) ∧ (∀ r, gprOf d = .float r → t.getFloat r = i2f w) ∧
        s.sameGprsBut t (gprOf d) ∧ s.sameFlags t ∧ s.samePointers t ∧ s.sameSystem t ∧ t.mem = s.mem) ∧
    (s.mem.read a.toNat = none → exec (.ld d a) s = .next (s.crashedWith .segfault))

/-- LEA: the address itself goes into the register, R6 and R7 by the cast, whatever the cell holds; nothing else
changes. The last eight clauses name the register of each value of the 3-bit field: 0 to 5 write R0 to R5, 6 and 7 write
R6 and R7. Covers lea (the spec's decisions: cast D24, no flag D35; logs 7, 38). -/
def Obligations.LeaLoadsTheAddress : Prop :=
  (∀ (d : BitVec 3) (a : BitVec 9) (s : State),
    ∃ t, exec (.lea d a) s = .next t ∧
      (∀ r, gprOf d = .word r → (t.getWord r).toNat = a.toNat) ∧
      (∀ r, gprOf d = .float r → t.getFloat r = i2f (BitVec.ofNat 16 a.toNat)) ∧
      s.sameGprsBut t (gprOf d) ∧ s.sameFlags t ∧ s.samePointers t ∧ s.sameSystem t ∧ t.mem = s.mem) ∧
  ∀ (a : BitVec 9) (s : State),
    exec (.lea 0#3 a) s = .next { s with r0 := a.setWidth 16 } ∧
    exec (.lea 1#3 a) s = .next { s with r1 := a.setWidth 16 } ∧
    exec (.lea 2#3 a) s = .next { s with r2 := a.setWidth 16 } ∧
    exec (.lea 3#3 a) s = .next { s with r3 := a.setWidth 16 } ∧
    exec (.lea 4#3 a) s = .next { s with r4 := a.setWidth 16 } ∧
    exec (.lea 5#3 a) s = .next { s with r5 := a.setWidth 16 } ∧
    exec (.lea 6#3 a) s = .next { s with r6 := i2f (a.setWidth 16) } ∧
    exec (.lea 7#3 a) s = .next { s with r7 := i2f (a.setWidth 16) }

/-- ST: the source register's word goes to the cell of the address field, or of the register when bit 15 of the register
is clear; with bit 15 set it crashes with Segfault; every other cell and everything else is unchanged. The last clause
names the register of each value of the 3-bit source field: 0 to 5 store R0 to R5, 6 and 7 the word that the open F2I
gives for R6 and R7. Covers stMem, stRegi (addresses D6, log 14; F2I D24, log 12, also for an address in R6 or R7). -/
def Obligations.StoreWritesOneCell : Prop :=
  (∀ (r : BitVec 3) (s : State),
    (∀ a : BitVec 8, ∃ t, exec (.stMem a r) s = .next t ∧
      t.mem.read a.toNat = some (readReg s (.gpr (gprOf r))) ∧ s.sameCellsBut t a.toNat ∧
      t = { s with mem := t.mem }) ∧
    (∀ n q, regOf n = .ok q → (readReg s q).msb = false →
      ∃ t, exec (.stRegi n r) s = .next t ∧
        t.mem.read (readReg s q).toNat = some (readReg s (.gpr (gprOf r))) ∧
        s.sameCellsBut t (readReg s q).toNat ∧ t = { s with mem := t.mem }) ∧
    ∀ n q, regOf n = .ok q → (readReg s q).msb = true →
      exec (.stRegi n r) s = .next (s.crashedWith .segfault)) ∧
  ∀ (a : BitVec 8) (s : State),
    ∀ p ∈ [(0#3, s.r0), (1#3, s.r1), (2#3, s.r2), (3#3, s.r3), (4#3, s.r4), (5#3, s.r5),
        (6#3, Config.f2i s.r6), (7#3, Config.f2i s.r7)],
      ∃ t, exec (.stMem a p.1) s = .next t ∧ t.mem.read a.toNat = some p.2

/-- A store through register 8 replaces the cell the next step fetches (the spec's decision D31 and, for the reading of
addresses, D6; logs 14, 35; a source R6 or R7 stores the word of the open F2I, the model's free value, D24, log 12).
Covers stRegi with n = 8. -/
def Obligations.StoreThroughPcIsFetchedNext : Prop :=
  ∀ (r : BitVec 3) (s : State), s.run = .running → s.pc.msb = false →
    ∃ t, exec (.stRegi 8#4 r) s = .next t ∧ t.fetches (readReg s (.gpr (gprOf r)))

/-! ### The call stack -/

/-- PUSH: sp moves away from bp (not at all when they are equal), the cell at the new sp receives the source, which for
a register is read after sp has moved, and nothing else changes. Covers pushImm, pushReg (sp = bp is the spec's decision
D16, the moment of the read D17, the immediate D5; logs 13, 17, 19; PUSH R6 and R7 push the word of the open F2I, the
model's free value, D24, log 12). -/
def Obligations.PushWritesTheNewTop : Prop :=
  ∀ (s : State) (p : Word), s.pushesTo p →
    (∀ i, ∃ t, exec (.pushImm i) s = .next t ∧
      t.sp = p ∧ t.mem.read p.toNat = some (i.signExtend 16) ∧ s.sameCellsBut t p.toNat ∧
      t = { s with sp := p, mem := t.mem }) ∧
    ∀ n r, regOf n = .ok r → ∃ t, exec (.pushReg n) s = .next t ∧
      t.sp = p ∧ t.mem.read p.toNat = some (readReg { s with sp := p } r) ∧ s.sameCellsBut t p.toNat ∧
      t = { s with sp := p, mem := t.mem }

/-- A push that would move sp out of the address space crashes with StackOverflow and changes nothing else: PUSH, and a
taken branch with push_ret set (the spec's decision D15; log 18). -/
def Obligations.PushOverflowCrashes : Prop :=
  ∀ s : State, s.pushOverflows →
    (∀ i, exec (.pushImm i) s = .next (s.crashedWith .stackOverflow)) ∧
    (∀ n r, regOf n = .ok r → exec (.pushReg n) s = .next (s.crashedWith .stackOverflow)) ∧
    ∀ b tg p, placeOf tg = .ok p → taken s b → s.pushRet = true →
      exec (Instr.bcc b tg) s = .next (s.crashedWith .stackOverflow)

/-- POP into R0 to R7: the word at sp goes to the register (R6 and R7 by the cast), its cell becomes NULL, sp moves one
step toward bp, and nothing else changes. Covers popReg (cast D24, log 7). -/
def Obligations.PopIntoGeneralRegister : Prop :=
  ∀ (n : BitVec 4) (g : Gpr) (s : State) (v p : Word), s.Inv → regOf n = .ok (.gpr g) →
    s.mem.read s.sp.toNat = some v → popsTo s.bp s.sp p →
    ∃ t, exec (.popReg n) s = .next t ∧
      (∀ r, g = .word r → t.getWord r = v) ∧ (∀ r, g = .float r → t.getFloat r = i2f v) ∧
      s.sameGprsBut t g ∧ t.sp = p ∧ t.pc = s.pc ∧
      t.mem.read s.sp.toNat = none ∧ s.sameCellsBut t s.sp.toNat ∧ s.sameFlags t ∧ s.sameSystem t

/-- POP to memory: the word at sp goes to the cell of the address field, then the cell at sp becomes NULL (so a
destination at sp ends NULL), sp moves one step toward bp, and nothing else changes. Covers popMem. -/
def Obligations.PopIntoMemory : Prop :=
  ∀ (a : BitVec 11) (s : State) (v p : Word), s.Inv → s.mem.read s.sp.toNat = some v → popsTo s.bp s.sp p →
    ∃ t, exec (.popMem a) s = .next t ∧ t.sp = p ∧
      (∀ b, t.mem.read b =
        if b = s.sp.toNat then none else if b = a.toNat then some v else s.mem.read b) ∧
      t = { s with sp := p, mem := t.mem }

/-- RET and POP R8 do the same: the word at sp goes to pc, its cell becomes NULL, sp moves one step toward bp; a word
with bit 15 set crashes with Segfault instead and writes nothing (addresses D6, log 14). Covers ret, popReg with n = 8. -/
def Obligations.ReturnPopsPc : Prop :=
  ∀ (s : State) (v p : Word), s.Inv → s.mem.read s.sp.toNat = some v → popsTo s.bp s.sp p →
    exec (.popReg 8#4) s = exec .ret s ∧
    (v.msb = true → exec .ret s = .next (s.crashedWith .segfault)) ∧
    (v.msb = false → ∃ t, exec .ret s = .next t ∧ t.pc = v ∧ t.sp = p ∧
      t.mem.read s.sp.toNat = none ∧ s.sameCellsBut t s.sp.toNat ∧
      t = { s with pc := v, sp := p, mem := t.mem })

/-- POP R9, in the literal order of the pseudocode: the word at sp becomes sp, the cell at the NEW sp becomes NULL, and
the new sp moves one step toward bp; the cell popped from keeps its word unless it is the same cell (the spec's decision
D17; log 19). Covers popReg with n = 9. -/
def Obligations.PopIntoStackPointer : Prop :=
  ∀ (s : State) (v p : Word), s.Inv → s.mem.read s.sp.toNat = some v → popsTo s.bp v p →
    (v.msb = true → exec (.popReg 9#4) s = .next (s.crashedWith .segfault)) ∧
    (v.msb = false → ∃ t, exec (.popReg 9#4) s = .next t ∧ t.sp = p ∧
      t.mem.read v.toNat = none ∧ s.sameCellsBut t v.toNat ∧ t = { s with sp := p, mem := t.mem })

/-- POP of both forms and RET on a NULL cell at sp crash with StackUnderflow and change nothing else (C6). -/
def Obligations.PopUnderflowCrashes : Prop :=
  ∀ s : State, s.mem.read s.sp.toNat = none →
    (∀ n r, regOf n = .ok r → exec (.popReg n) s = .next (s.crashedWith .stackUnderflow)) ∧
    (∀ a, exec (.popMem a) s = .next (s.crashedWith .stackUnderflow)) ∧
    exec .ret s = .next (s.crashedWith .stackUnderflow)

/-- What a PUSH of an immediate puts on the stack the POP right after it takes off: the register receives it, sp and
every cell but the one pushed to are as before the PUSH, and that cell is NULL (the value of an immediate is the spec's
decision D5, log 13; sp = bp D16, log 17). -/
def Obligations.PopUndoesPush : Prop :=
  ∀ (s t : State) (i : BitVec 8) (n : BitVec 4) (r : WordReg), s.Inv → s.pushesTo t.sp →
    regOf n = .ok (.gpr (.word r)) → exec (.pushImm i) s = .next t →
    ∃ u, exec (.popReg n) t = .next u ∧ u.getWord r = i.signExtend 16 ∧ u.sp = s.sp ∧
      u.mem.read t.sp.toNat = none ∧ s.sameCellsBut u t.sp.toNat

/-! ### JMP and the branches -/

/-- JMP: pc receives the address field, or the register when its bit 15 is clear; with bit 15 set it crashes with
Segfault; nothing is pushed and nothing else changes. Covers jmpMem, jmpReg (addresses D6, log 14; a target in
R6 or R7 is the word of the open F2I, the model's free value, D24, log 12). -/
def Obligations.JumpSetsPc : Prop :=
  ∀ s : State,
    (∀ a : BitVec 10, exec (.jmpMem a) s = .next { s with pc := a.setWidth 16 }) ∧
    (∀ n r, regOf n = .ok r → (readReg s r).msb = false →
      exec (.jmpReg n) s = .next { s with pc := readReg s r }) ∧
    ∀ n r, regOf n = .ok r → (readReg s r).msb = true →
      exec (.jmpReg n) s = .next (s.crashedWith .segfault)

/-- A branch that is not taken changes nothing (pc is already at the next instruction). A taken branch with push_ret
clear: pc receives the target and nothing else changes; a register target with bit 15 set crashes with Segfault. Covers
boMem, boReg, bnoMem, bnoReg, bzMem, bzReg, bnzMem, bnzReg, blMem, blReg, bgMem, bgReg (addresses D6, log 14; a target
in R6 or R7 is the word of the open F2I, the model's free value, D24, log 12). -/
def Obligations.BranchWithoutPush : Prop :=
  ∀ (b : Branch) (s : State),
    (¬ taken s b → ∀ tg p, placeOf tg = .ok p → exec (Instr.bcc b tg) s = .next s) ∧
    (taken s b → s.pushRet = false → ∀ a : BitVec 10,
      exec (Instr.bcc b (.mem a)) s = .next { s with pc := a.setWidth 16 }) ∧
    (taken s b → s.pushRet = false → ∀ n r, regOf n = .ok r → (readReg s r).msb = false →
      exec (Instr.bcc b (.reg n)) s = .next { s with pc := readReg s r }) ∧
    (taken s b → s.pushRet = false → ∀ n r, regOf n = .ok r → (readReg s r).msb = true →
      exec (Instr.bcc b (.reg n)) s = .next (s.crashedWith .segfault))

/-- A taken branch with push_ret set: sp moves as for PUSH, the cell at the new sp receives the pc (the address after
the branch), pc receives the target, a register target being read after sp has moved, and nothing else changes; a
register target with bit 15 set ends in the crash state with Segfault. Covers boMem, boReg, bnoMem, bnoReg, bzMem, bzReg,
bnzMem, bnzReg, blMem, blReg, bgMem, bgReg (sp = bp D16, addresses D6; logs 14, 17; a target in R6 or R7 is the word of
the open F2I, the model's free value, D24, log 12; no partial effect of the crash is stated, D28, log 26). -/
def Obligations.BranchTakenPushesReturnAddress : Prop :=
  ∀ (b : Branch) (s : State) (p : Word), taken s b → s.pushRet = true → s.pushesTo p →
    (∀ a : BitVec 10, ∃ t, exec (Instr.bcc b (.mem a)) s = .next t ∧
      t.mem.read p.toNat = some s.pc ∧ s.sameCellsBut t p.toNat ∧
      t = { s with pc := a.setWidth 16, sp := p, mem := t.mem }) ∧
    (∀ n r, regOf n = .ok r → (readReg { s with sp := p } r).msb = false →
      ∃ t, exec (Instr.bcc b (.reg n)) s = .next t ∧
        t.mem.read p.toNat = some s.pc ∧ s.sameCellsBut t p.toNat ∧
        t = { s with pc := readReg { s with sp := p } r, sp := p, mem := t.mem }) ∧
    ∀ n r, regOf n = .ok r → (readReg { s with sp := p } r).msb = true →
      ∃ t, exec (Instr.bcc b (.reg n)) s = .next t ∧ t.run = .crashed .segfault

/-- A call returns: after a taken branch to an address field with push_ret set, RET brings pc back to the instruction
after the branch and sp back to where it was (for a return address with bit 15 clear: addresses D6). -/
def Obligations.ReturnResumesAfterBranch : Prop :=
  ∀ (b : Branch) (a : BitVec 10) (s : State) (p : Word), s.Inv → taken s b → s.pushRet = true → s.pushesTo p →
    s.pc.msb = false →
    ∃ t u, exec (Instr.bcc b (.mem a)) s = .next t ∧ exec .ret t = .next u ∧
      u.pc = s.pc ∧ u.sp = s.sp ∧ s.sameGprs u ∧ s.sameFlags u ∧ s.sameSystem u ∧ s.sameCellsBut u p.toNat

/-! ### HLT and INT -/

/-- HLT, whatever its 12 low bits: the machine is halted and nothing else changes. Covers hlt (the rest of the state
after HLT is the spec's decision D32). -/
def Obligations.HaltStopsTheMachine : Prop :=
  ∀ (x : BitVec 12) (s : State), exec (.hlt x) s = .next { s with run := .halted }

/-- INT -6 to -1 crash with the six errors in listed order (the spec's decision D19), and INT with a code that is not
listed crashes with IllegalInstruction (INT_UNLISTED, D18); nothing else changes (log 20; which immediate a negative
code is, is the spec's decision D5, log 13). Covers int. -/
def Obligations.IntErrorCodes : Prop :=
  ∀ s : State,
    exec (.int (-6)) s = .next (s.crashedWith .stackUnderflow) ∧
    exec (.int (-5)) s = .next (s.crashedWith .segfault) ∧
    exec (.int (-4)) s = .next (s.crashedWith .illegalInstruction) ∧
    exec (.int (-3)) s = .next (s.crashedWith .divideByZero) ∧
    exec (.int (-2)) s = .next (s.crashedWith .invalidRegister) ∧
    exec (.int (-1)) s = .next (s.crashedWith .stackOverflow) ∧
    ∀ i : BitVec 8, i.toInt ∉ listedCodes → exec (.int i) s = .next (s.crashedWith .illegalInstruction)

/-- INT 0 to 7 append the register's number and content to the output and change nothing else. Covers int (events for
characters: the spec's decision D21; log 22). -/
def Obligations.IntPrintsARegister : Prop :=
  ∀ s : State,
    exec (.int 0#8) s = .next { s with out := s.out ++ [.printReg (.word .r0) (.word s.r0)] } ∧
    exec (.int 1#8) s = .next { s with out := s.out ++ [.printReg (.word .r1) (.word s.r1)] } ∧
    exec (.int 2#8) s = .next { s with out := s.out ++ [.printReg (.word .r2) (.word s.r2)] } ∧
    exec (.int 3#8) s = .next { s with out := s.out ++ [.printReg (.word .r3) (.word s.r3)] } ∧
    exec (.int 4#8) s = .next { s with out := s.out ++ [.printReg (.word .r4) (.word s.r4)] } ∧
    exec (.int 5#8) s = .next { s with out := s.out ++ [.printReg (.word .r5) (.word s.r5)] } ∧
    exec (.int 6#8) s = .next { s with out := s.out ++ [.printReg (.float .r6) (.float s.r6)] } ∧
    exec (.int 7#8) s = .next { s with out := s.out ++ [.printReg (.float .r7) (.float s.r7)] }

/-- INT 8: the initialised cells from R0 to R1, both included, in the memory's ascending order; nothing printed is
stated when R0 is above R1, but the instruction runs; an end with bit 15 set crashes with Segfault. Covers int (inclusive
and ascending D21; the reversed range is the model's free value, log 21; bit 15 of an end D6, log 14). -/
def Obligations.IntPrintsCells : Prop :=
  ∀ s : State, s.Inv →
    (s.r1.msb = false → s.r0.toNat ≤ s.r1.toNat →
      exec (.int 8#8) s = .next { s with out := s.out ++
        [.printMem (s.mem.filter fun c => decide (s.r0.toNat ≤ c.1) && decide (c.1 ≤ s.r1.toNat))] }) ∧
    (s.r0.msb = false → s.r1.toNat < s.r0.toNat →
      ∃ cells, exec (.int 8#8) s = .next { s with out := s.out ++ [.printMem cells], draws := s.draws + 1 }) ∧
    ((s.r0.msb = true ∨ s.r1.msb = true) → exec (.int 8#8) s = .next (s.crashedWith .segfault))

/-- INT 9 and INT 40 run in every state and write R0, the console and nothing else; a supplied character or a supplied
line that parses gives R0 its value, and the line is echoed. Covers int (the oracle D22; draws and failures are the
model's free values, logs 23, 24). -/
def Obligations.IntReadsInput : Prop :=
  ∀ s : State,
    (∃ v, exec (.int 9#8) s =
        .next { s with r0 := v, inChars := s.inChars.tail, draws := s.draws + 1 } ∧
      ∀ c cs, s.inChars = .char c :: cs → v = c.setWidth 16) ∧
    ∃ v es, exec (.int 40#8) s =
        .next { s with r0 := v, out := s.out ++ es, inLines := s.inLines.tail, draws := s.draws + 1 } ∧
      ∀ text w ls, s.inLines = .parsed text w :: ls → v = w ∧ es = [.echo text]

/-- INT 11 to 13, 21 to 23, 31 to 33 and 41 to 43 set, unset and invert Z, O, R and S, and change nothing else. Covers
int (the pairing is the spec's decision D19; log 20). -/
def Obligations.IntFlagCodes : Prop :=
  ∀ s : State,
    exec (.int 11#8) s = .next { s with flagZ := true } ∧
    exec (.int 12#8) s = .next { s with flagZ := false } ∧
    exec (.int 13#8) s = .next { s with flagZ := !s.flagZ } ∧
    exec (.int 21#8) s = .next { s with flagO := true } ∧
    exec (.int 22#8) s = .next { s with flagO := false } ∧
    exec (.int 23#8) s = .next { s with flagO := !s.flagO } ∧
    exec (.int 31#8) s = .next { s with flagR := true } ∧
    exec (.int 32#8) s = .next { s with flagR := false } ∧
    exec (.int 33#8) s = .next { s with flagR := !s.flagR } ∧
    exec (.int 41#8) s = .next { s with flagS := true } ∧
    exec (.int 42#8) s = .next { s with flagS := false } ∧
    exec (.int 43#8) s = .next { s with flagS := !s.flagS }

/-- INT 10 changes nothing; INT 60 and 61 set sp and bp to R4 when its bit 15 is clear and crash with Segfault when it
is set; nothing else changes. Covers int (no time D23, log 25; addresses D6, D20, log 14). -/
def Obligations.IntSleepAndPointers : Prop :=
  ∀ s : State,
    exec (.int 10#8) s = .next s ∧
    (s.r4.msb = false → exec (.int 60#8) s = .next { s with sp := s.r4 } ∧
      exec (.int 61#8) s = .next { s with bp := s.r4 }) ∧
    (s.r4.msb = true → exec (.int 60#8) s = .next (s.crashedWith .segfault) ∧
      exec (.int 61#8) s = .next (s.crashedWith .segfault))

/-- R103: the word 0xD146 is INT 70, which sets push_ret and changes nothing else. Covers int. -/
def Obligations.Int70SetsPushRet : Prop :=
  decode 0xD146#16 = .ok (.int 70#8) ∧
  ∀ s : State, exec (.int 70#8) s = .next { s with pushRet := true }

/-- R104: the word 0xD147 is INT 71, which clears push_ret and changes nothing else; with push_ret clear a taken Bcc is
JMP to the same target. Covers int. -/
def Obligations.Int71ClearsPushRet : Prop :=
  decode 0xD147#16 = .ok (.int 71#8) ∧
  (∀ s : State, exec (.int 71#8) s = .next { s with pushRet := false }) ∧
  ∀ (b : Branch) (tg : Target) (s : State), s.pushRet = false → taken s b →
    exec (Instr.bcc b tg) s = exec (Instr.jmp tg) s

/-! ### Rules of the whole machine -/

/-- bp is changed by INT 61 alone (R14). -/
def Obligations.BasePointerWrittenOnlyByInt61 : Prop :=
  ∀ (i : Instr) (s t : State), exec i s = .next t → t.bp ≠ s.bp → i = .int 61#8

/-- push_ret is true when execution starts, is set by INT 70, cleared by INT 71 and written by nothing else; it
decides whether a taken Bcc pushes the return address, and nothing else reads it: every other instruction does the same
whatever it holds, and leaves it out of the rest of the state (R18; where a push goes when sp = bp is the spec's decision
D16, log 17). -/
def Obligations.PushRetReadOnlyByTakenBranches : Prop :=
  State.reset.pushRet = true ∧
  (∀ (i : Instr) (s t : State), exec i s = .next t →
    t.pushRet = if i = .int 70#8 then true else if i = .int 71#8 then false else s.pushRet) ∧
  (∀ (i : Instr) (s t : State) (x : Bool), exec i s = .next t →
    (∀ b tg, i = Instr.bcc b tg → ¬ taken s b) →
    exec i { s with pushRet := x } =
      .next { t with pushRet := if i = .int 70#8 then true else if i = .int 71#8 then false else x }) ∧
  (∀ (b : Branch) (tg : Target) (s : State), taken s b → s.pushRet = false →
    exec (Instr.bcc b tg) s = exec (Instr.jmp tg) s) ∧
  ∀ (b : Branch) (tg : Target) (s t : State) (p : Word), taken s b → s.pushRet = true → s.pushesTo p →
    exec (Instr.bcc b tg) s = .next t → (∀ e, t.run ≠ .crashed e) →
    t.sp = p ∧ t.mem.read p.toNat = some s.pc

/-- R15: ir is written by the fetch and by nothing else, and no instruction reads it: the step of a machine does not
depend on what ir held. -/
def Obligations.InstructionRegisterOnlyFetched : Prop :=
  (∀ (i : Instr) (s t : State) (x : Word), exec i s = .next t →
    exec i { s with ir := x } = .next { t with ir := x }) ∧
  (∀ (s t : State) (w : Word), s.mem.read s.pc.toNat = some w → step s = .next t → t.ir = w) ∧
  ∀ (s : State) (x w : Word), s.mem.read s.pc.toNat = some w → step { s with ir := x } = step s

/-- The flags are read by the six Bcc alone: replacing the four flags changes nothing but flags in what any other
instruction leaves; and R is read by no branch either (R17; the model's free flags after float arithmetic, log 9, are
flags too). -/
def Obligations.FlagsReadOnlyByBranches : Prop :=
  (∀ (i : Instr) (s t : State) (z n o r : Bool), exec i s = .next t → (∀ b tg, i ≠ Instr.bcc b tg) →
    ∃ z' n' o' r', exec i (s.withFlags z n o r) = .next (t.withFlags z' n' o' r')) ∧
  ∀ (b : Branch) (tg : Target) (s t : State) (r : Bool), exec (Instr.bcc b tg) s = .next t →
    exec (Instr.bcc b tg) { s with flagR := r } = .next { t with flagR := r }

/-- Who writes each flag: Z and S by CMP and their INT codes, O by ADD, DIV and its INT codes, R by DIV and its INT
codes, and R by an ADD only into R6 or R7, where it is the model's free value (R16; O_POLICY D7, D35; logs 9, 15). -/
def Obligations.FlagWriters : Prop :=
  ∀ (i : Instr) (s t : State), exec i s = .next t →
    (t.flagZ ≠ s.flagZ → (∃ d rhs, i = Instr.cmp d rhs) ∨ i ∈ [.int 11#8, .int 12#8, .int 13#8]) ∧
    (t.flagS ≠ s.flagS → (∃ d rhs, i = Instr.cmp d rhs) ∨ i ∈ [.int 41#8, .int 42#8, .int 43#8]) ∧
    (t.flagO ≠ s.flagO → (∃ d rhs, i = Instr.add d rhs ∨ i = Instr.div d rhs) ∨
      i ∈ [.int 21#8, .int 22#8, .int 23#8]) ∧
    (t.flagR ≠ s.flagR → (∃ d rhs, i = Instr.div d rhs ∨ 6 ≤ d.toNat ∧ i = Instr.add d rhs) ∨
      i ∈ [.int 31#8, .int 32#8, .int 33#8])

/-- The only way a cell is ever uninitialised: POP and RET, and at most one cell (R27, R74). -/
def Obligations.CellsBecomeNullOnlyByPop : Prop :=
  ∀ (i : Instr) (s t : State), s.Inv → exec i s = .next t →
    (∀ a, s.mem.read a ≠ none → t.mem.read a = none →
      (∃ n, i = .popReg n) ∨ (∃ a', i = .popMem a') ∨ i = .ret) ∧
    ∀ a b, s.mem.read a ≠ none → t.mem.read a = none → s.mem.read b ≠ none → t.mem.read b = none → a = b

/-- An error is raised only by the instructions listed for it (R107 to R112; the causes are the spec's decisions D9, D14,
D15, D18 to D21, the immediates of the negative codes D5, log 13, and the open float division by zero is the model's,
log 10). When they do raise it is what the statements about each of them say. -/
def Obligations.ErrorSources : Prop :=
  ∀ (i : Instr) (s t : State) (e : MachineError), s.run = .running → exec i s = .next t → t.run = .crashed e →
    match e with
    | .stackUnderflow => s.mem.read s.sp.toNat = none ∧ ((∃ n, i = .popReg n) ∨ (∃ a, i = .popMem a) ∨ i = .ret) ∨
        i = .int (-6)
    | .segfault =>
        (∃ f ∈ [Instr.add, Instr.div, Instr.cmp, Instr.nand, Instr.mov], ∃ d,
          (∃ n, i = f d (.regi n)) ∨ ∃ a, i = f d (.memi a)) ∨
        (∃ d a, i = .ld d a) ∨ (∃ n r, i = .stRegi n r) ∨ (∃ n, i = .jmpReg n) ∨
        (∃ b n, i = Instr.bcc b (.reg n) ∧ taken s b) ∨
        i ∈ [.popReg 8, .popReg 9, .ret, .int (-5), .int 8, .int 60, .int 61]
    | .illegalInstruction => ∃ c : BitVec 8, i = .int c ∧ (c = -4 ∨ c.toInt ∉ listedCodes)
    | .divideByZero => (∃ d rhs, i = Instr.div d rhs) ∨ i = .int (-3)
    | .invalidRegister => (∃ n, regField i = some n ∧ 10 ≤ n.toNat) ∨ i = .int (-2)
    | .stackOverflow => s.pushOverflows ∧
        ((∃ k, i = .pushImm k) ∨ (∃ n, i = .pushReg n) ∨ (s.pushRet = true ∧ ∃ b tg, i = Instr.bcc b tg ∧ taken s b)) ∨
        i = .int (-1)

/-- Errors are precise: an instruction that crashes the machine has changed nothing but the run state, unless it is a
branch to a register with push_ret set (R113; that case and the promise are the spec's decision D28; log 26). -/
def Obligations.ErrorsArePrecise : Prop :=
  ∀ (i : Instr) (s t : State) (e : MachineError), s.run = .running → exec i s = .next t → t.run = .crashed e →
    t = s.crashedWith e ∨ (s.pushRet = true ∧ ∃ b n, i = Instr.bcc b (.reg n))

/-- No step takes back output: what the console shows only grows (R21, R92, R93, R99). -/
def Obligations.OutputOnlyGrows : Prop :=
  ∀ s t : State, step s = .next t → ∃ es, t.out = s.out ++ es

/-! ### ROM and screen -/

/-- A ROM of a version word, a word 0x02XX and a body that fits loads to the reset state with pc at XX and the body from
there on, every other cell NULL; a ROM of an odd length, of less than two words, with another second word or with a body
that does not fit is refused (the spec's decisions D25 and D33; log 31). Every other field is as after reset: sp and bp
0x63 whatever XX is (D26, log 33), and the registers, flags and ir at the values the model chose (logs 2 to 5). -/
def Obligations.RomLoads : Prop :=
  (∀ (version : Word) (xx : Byte) (body : List Word), xx.toNat + body.length ≤ 65536 →
    ∃ t, loadRom (romBytes (version :: (0x02#8 ++ xx) :: body)) = .ok t ∧
      t.pc.toNat = xx.toNat ∧ t = { State.reset with pc := t.pc, mem := t.mem } ∧ t.Inv ∧
      ∀ a, t.mem.read a = if a < xx.toNat then none else body[a - xx.toNat]?) ∧
  (∀ (version : Word) (xx : Byte) (body : List Word), 65536 < xx.toNat + body.length →
    loadRom (romBytes (version :: (0x02#8 ++ xx) :: body)) = .error .tooLong) ∧
  (∀ (version start : Word) (body : List Word), start.extractLsb' 8 8 ≠ 0x02#8 →
    loadRom (romBytes (version :: start :: body)) = .error .noStartWord) ∧
  (∀ rom : List Byte, rom.length % 2 = 1 → loadRom rom = .error .oddLength) ∧
  ∀ rom : List Byte, rom.length % 2 = 0 → rom.length < 4 → loadRom rom = .error .tooShort

/-- The screen: each video cell is shown at exactly one place and only video cells are shown; a NULL cell shows a
space; ST through a register into the cell of a place shows the low 8 bits of the word there and changes no other
place. The cell of a place is 0xFF + 75 * row + column, row by row (R35; that layout is the spec's general knowledge, D29,
log 32; addresses D6, log 14; an address or a source in R6 or R7 is the word of the open F2I, D24, log 12). -/
def Obligations.ScreenShowsVideoMemory : Prop :=
  (∀ row col, screenCell row col = 0xFF + 75 * row.val + col.val) ∧
  (∀ row col, isVideo (screenCell row col) = true) ∧
  (∀ a, 0x00FF ≤ a → a ≤ 0x09C8 → ∃ row col, screenCell row col = a) ∧
  (∀ row col row' col', screenCell row col = screenCell row' col' → row = row' ∧ col = col') ∧
  (∀ (m : Memory) row col, m.read (screenCell row col) = none → screenCode m row col = 0x20#8) ∧
  ∀ (n : BitVec 4) (q : Reg) (r : BitVec 3) (s : State) row col, regOf n = .ok q →
    (readReg s q).toNat = screenCell row col →
    ∃ t, exec (.stRegi n r) s = .next t ∧
      screenCode t.mem row col = (readReg s (.gpr (gprOf r))).setWidth 8 ∧
      ∀ row' col', (row', col') ≠ (row, col) → screenCode t.mem row' col' = screenCode s.mem row' col'
end

