-- ==== Sys2Proof/Laws/Encoding.lean ====
section
/-!
SUPPORT. The fields of the words the encoder builds, one lemma per field of each shared row of the format tables.
-/

namespace Sys2Proof

/-- A field is `x` when their bits agree. -/
theorem field_eq {w : Word} {lo len : Nat} {x : BitVec len} (h : ∀ j < len, w.getLsbD (lo + j) = x.getLsbD j) :
    field w lo len = x := by
  apply BitVec.eq_of_getLsbD_eq
  intro j hj
  simp [field, hj, h j hj]

@[simp] theorem encodeImm_op (op : BitVec 4) (d : BitVec 3) (i : BitVec 8) : field (encodeImm op d i) 12 4 = op := by
  apply field_eq
  intro j hj
  simp only [encodeImm, BitVec.getLsbD_append]
  interval_cases j <;> simp

@[simp] theorem encodeImm_lhs (op : BitVec 4) (d : BitVec 3) (i : BitVec 8) : field (encodeImm op d i) 9 3 = d := by
  apply field_eq
  intro j hj
  simp only [encodeImm, BitVec.getLsbD_append]
  interval_cases j <;> simp

@[simp] theorem encodeImm_bit8 (op : BitVec 4) (d : BitVec 3) (i : BitVec 8) : field (encodeImm op d i) 8 1 = 1#1 := by
  apply field_eq
  intro j hj
  simp only [encodeImm, BitVec.getLsbD_append]
  interval_cases j; simp

@[simp] theorem encodeImm_imm (op : BitVec 4) (d : BitVec 3) (i : BitVec 8) : field (encodeImm op d i) 0 8 = i := by
  apply field_eq
  intro j hj
  simp only [encodeImm, BitVec.getLsbD_append]
  interval_cases j <;> simp

@[simp] theorem encodeMemi_op (op : BitVec 4) (d : BitVec 3) (a : BitVec 7) : field (encodeMemi op d a) 12 4 = op := by
  apply field_eq
  intro j hj
  simp only [encodeMemi, BitVec.getLsbD_append]
  interval_cases j <;> simp

@[simp] theorem encodeMemi_lhs (op : BitVec 4) (d : BitVec 3) (a : BitVec 7) : field (encodeMemi op d a) 9 3 = d := by
  apply field_eq
  intro j hj
  simp only [encodeMemi, BitVec.getLsbD_append]
  interval_cases j <;> simp

@[simp] theorem encodeMemi_bit8 (op : BitVec 4) (d : BitVec 3) (a : BitVec 7) : field (encodeMemi op d a) 8 1 = 0#1 := by
  apply field_eq
  intro j hj
  simp only [encodeMemi, BitVec.getLsbD_append]
  interval_cases j; simp

@[simp] theorem encodeMemi_bit7 (op : BitVec 4) (d : BitVec 3) (a : BitVec 7) : field (encodeMemi op d a) 7 1 = 1#1 := by
  apply field_eq
  intro j hj
  simp only [encodeMemi, BitVec.getLsbD_append]
  interval_cases j; simp

@[simp] theorem encodeMemi_addr (op : BitVec 4) (d : BitVec 3) (a : BitVec 7) : field (encodeMemi op d a) 0 7 = a := by
  apply field_eq
  intro j hj
  simp only [encodeMemi, BitVec.getLsbD_append]
  interval_cases j <;> simp

@[simp] theorem encodeRegi_op (op : BitVec 4) (d : BitVec 3) (n : BitVec 4) : field (encodeRegi op d n) 12 4 = op := by
  apply field_eq
  intro j hj
  simp only [encodeRegi, BitVec.getLsbD_append]
  interval_cases j <;> simp

@[simp] theorem encodeRegi_lhs (op : BitVec 4) (d : BitVec 3) (n : BitVec 4) : field (encodeRegi op d n) 9 3 = d := by
  apply field_eq
  intro j hj
  simp only [encodeRegi, BitVec.getLsbD_append]
  interval_cases j <;> simp

@[simp] theorem encodeRegi_bit8 (op : BitVec 4) (d : BitVec 3) (n : BitVec 4) : field (encodeRegi op d n) 8 1 = 0#1 := by
  apply field_eq
  intro j hj
  simp only [encodeRegi, BitVec.getLsbD_append]
  interval_cases j; simp

@[simp] theorem encodeRegi_bit7 (op : BitVec 4) (d : BitVec 3) (n : BitVec 4) : field (encodeRegi op d n) 7 1 = 0#1 := by
  apply field_eq
  intro j hj
  simp only [encodeRegi, BitVec.getLsbD_append]
  interval_cases j; simp

@[simp] theorem encodeRegi_kind (op : BitVec 4) (d : BitVec 3) (n : BitVec 4) : field (encodeRegi op d n) 4 3 = 0b100#3 := by
  apply field_eq
  intro j hj
  simp only [encodeRegi, BitVec.getLsbD_append]
  interval_cases j <;> simp

@[simp] theorem encodeRegi_num (op : BitVec 4) (d : BitVec 3) (n : BitVec 4) : field (encodeRegi op d n) 0 4 = n := by
  apply field_eq
  intro j hj
  simp only [encodeRegi, BitVec.getLsbD_append]
  interval_cases j <;> simp

@[simp] theorem encodeReg_op (op : BitVec 4) (d : BitVec 3) (n : BitVec 4) : field (encodeReg op d n) 12 4 = op := by
  apply field_eq
  intro j hj
  simp only [encodeReg, BitVec.getLsbD_append]
  interval_cases j <;> simp

@[simp] theorem encodeReg_lhs (op : BitVec 4) (d : BitVec 3) (n : BitVec 4) : field (encodeReg op d n) 9 3 = d := by
  apply field_eq
  intro j hj
  simp only [encodeReg, BitVec.getLsbD_append]
  interval_cases j <;> simp

@[simp] theorem encodeReg_bit8 (op : BitVec 4) (d : BitVec 3) (n : BitVec 4) : field (encodeReg op d n) 8 1 = 0#1 := by
  apply field_eq
  intro j hj
  simp only [encodeReg, BitVec.getLsbD_append]
  interval_cases j; simp

@[simp] theorem encodeReg_bit7 (op : BitVec 4) (d : BitVec 3) (n : BitVec 4) : field (encodeReg op d n) 7 1 = 0#1 := by
  apply field_eq
  intro j hj
  simp only [encodeReg, BitVec.getLsbD_append]
  interval_cases j; simp

@[simp] theorem encodeReg_kind (op : BitVec 4) (d : BitVec 3) (n : BitVec 4) : field (encodeReg op d n) 4 3 = 0b000#3 := by
  apply field_eq
  intro j hj
  simp only [encodeReg, BitVec.getLsbD_append]
  interval_cases j <;> simp

@[simp] theorem encodeReg_num (op : BitVec 4) (d : BitVec 3) (n : BitVec 4) : field (encodeReg op d n) 0 4 = n := by
  apply field_eq
  intro j hj
  simp only [encodeReg, BitVec.getLsbD_append]
  interval_cases j <;> simp

@[simp] theorem encodeJumpMem_op (op : BitVec 4) (iv : BitVec 1) (a : BitVec 10) : field (encodeJumpMem op iv a) 12 4 = op := by
  apply field_eq
  intro j hj
  simp only [encodeJumpMem, BitVec.getLsbD_append]
  interval_cases j <;> simp

@[simp] theorem encodeJumpMem_iv (op : BitVec 4) (iv : BitVec 1) (a : BitVec 10) : field (encodeJumpMem op iv a) 11 1 = iv := by
  apply field_eq
  intro j hj
  simp only [encodeJumpMem, BitVec.getLsbD_append]
  interval_cases j; simp

@[simp] theorem encodeJumpMem_form (op : BitVec 4) (iv : BitVec 1) (a : BitVec 10) : field (encodeJumpMem op iv a) 10 1 = 0#1 := by
  apply field_eq
  intro j hj
  simp only [encodeJumpMem, BitVec.getLsbD_append]
  interval_cases j; simp

@[simp] theorem encodeJumpMem_addr (op : BitVec 4) (iv : BitVec 1) (a : BitVec 10) : field (encodeJumpMem op iv a) 0 10 = a := by
  apply field_eq
  intro j hj
  simp only [encodeJumpMem, BitVec.getLsbD_append]
  interval_cases j <;> simp

@[simp] theorem encodeJumpReg_op (op : BitVec 4) (iv : BitVec 1) (n : BitVec 4) : field (encodeJumpReg op iv n) 12 4 = op := by
  apply field_eq
  intro j hj
  simp only [encodeJumpReg, BitVec.getLsbD_append]
  interval_cases j <;> simp

@[simp] theorem encodeJumpReg_iv (op : BitVec 4) (iv : BitVec 1) (n : BitVec 4) : field (encodeJumpReg op iv n) 11 1 = iv := by
  apply field_eq
  intro j hj
  simp only [encodeJumpReg, BitVec.getLsbD_append]
  interval_cases j; simp

@[simp] theorem encodeJumpReg_form (op : BitVec 4) (iv : BitVec 1) (n : BitVec 4) : field (encodeJumpReg op iv n) 10 1 = 1#1 := by
  apply field_eq
  intro j hj
  simp only [encodeJumpReg, BitVec.getLsbD_append]
  interval_cases j; simp

@[simp] theorem encodeJumpReg_zeros (op : BitVec 4) (iv : BitVec 1) (n : BitVec 4) : field (encodeJumpReg op iv n) 4 6 = 0#6 := by
  apply field_eq
  intro j hj
  simp only [encodeJumpReg, BitVec.getLsbD_append]
  interval_cases j <;> simp

@[simp] theorem encodeJumpReg_num (op : BitVec 4) (iv : BitVec 1) (n : BitVec 4) : field (encodeJumpReg op iv n) 0 4 = n := by
  apply field_eq
  intro j hj
  simp only [encodeJumpReg, BitVec.getLsbD_append]
  interval_cases j <;> simp

/-! ### The encoder, one equation per constructor -/

theorem encode_hlt (ignored : BitVec 12) :
    encode (.hlt ignored) = 0x0#4 ++ ignored := rfl

theorem encode_addImm (d : BitVec 3) (i : BitVec 8) :
    encode (.addImm d i) = encodeImm 0x1#4 d i := rfl

theorem encode_addReg (d : BitVec 3) (n : BitVec 4) :
    encode (.addReg d n) = encodeReg 0x1#4 d n := rfl

theorem encode_addRegi (d : BitVec 3) (n : BitVec 4) :
    encode (.addRegi d n) = encodeRegi 0x1#4 d n := rfl

theorem encode_addMemi (d : BitVec 3) (a : BitVec 7) :
    encode (.addMemi d a) = encodeMemi 0x1#4 d a := rfl

theorem encode_divImm (d : BitVec 3) (i : BitVec 8) :
    encode (.divImm d i) = encodeImm 0x4#4 d i := rfl

theorem encode_divReg (d : BitVec 3) (n : BitVec 4) :
    encode (.divReg d n) = encodeReg 0x4#4 d n := rfl

theorem encode_divRegi (d : BitVec 3) (n : BitVec 4) :
    encode (.divRegi d n) = encodeRegi 0x4#4 d n := rfl

theorem encode_divMemi (d : BitVec 3) (a : BitVec 7) :
    encode (.divMemi d a) = encodeMemi 0x4#4 d a := rfl

theorem encode_cmpImm (d : BitVec 3) (i : BitVec 8) :
    encode (.cmpImm d i) = encodeImm 0xA#4 d i := rfl

theorem encode_cmpReg (d : BitVec 3) (n : BitVec 4) :
    encode (.cmpReg d n) = encodeReg 0xA#4 d n := rfl

theorem encode_cmpRegi (d : BitVec 3) (n : BitVec 4) :
    encode (.cmpRegi d n) = encodeRegi 0xA#4 d n := rfl

theorem encode_cmpMemi (d : BitVec 3) (a : BitVec 7) :
    encode (.cmpMemi d a) = encodeMemi 0xA#4 d a := rfl

theorem encode_nandImm (d : BitVec 3) (i : BitVec 8) :
    encode (.nandImm d i) = encodeImm 0xB#4 d i := rfl

theorem encode_nandReg (d : BitVec 3) (n : BitVec 4) :
    encode (.nandReg d n) = encodeReg 0xB#4 d n := rfl

theorem encode_nandRegi (d : BitVec 3) (n : BitVec 4) :
    encode (.nandRegi d n) = encodeRegi 0xB#4 d n := rfl

theorem encode_nandMemi (d : BitVec 3) (a : BitVec 7) :
    encode (.nandMemi d a) = encodeMemi 0xB#4 d a := rfl

theorem encode_movImm (d : BitVec 3) (i : BitVec 8) :
    encode (.movImm d i) = encodeImm 0xE#4 d i := rfl

theorem encode_movReg (d : BitVec 3) (n : BitVec 4) :
    encode (.movReg d n) = encodeReg 0xE#4 d n := rfl

theorem encode_movRegi (d : BitVec 3) (n : BitVec 4) :
    encode (.movRegi d n) = encodeRegi 0xE#4 d n := rfl

theorem encode_movMemi (d : BitVec 3) (a : BitVec 7) :
    encode (.movMemi d a) = encodeMemi 0xE#4 d a := rfl

theorem encode_ld (d : BitVec 3) (a : BitVec 9) :
    encode (.ld d a) = 0x6#4 ++ d ++ a := rfl

theorem encode_lea (d : BitVec 3) (a : BitVec 9) :
    encode (.lea d a) = 0xF#4 ++ d ++ a := rfl

theorem encode_stMem (a : BitVec 8) (r : BitVec 3) :
    encode (.stMem a r) = 0x7#4 ++ 0#1 ++ a ++ r := rfl

theorem encode_stRegi (n : BitVec 4) (r : BitVec 3) :
    encode (.stRegi n r) = 0x7#4 ++ 1#1 ++ n ++ 0#4 ++ r := rfl

theorem encode_popReg (n : BitVec 4) :
    encode (.popReg n) = 0x3#4 ++ 0#8 ++ n := rfl

theorem encode_popMem (a : BitVec 11) :
    encode (.popMem a) = 0x3#4 ++ 1#1 ++ a := rfl

theorem encode_pushImm (i : BitVec 8) :
    encode (.pushImm i) = 0xC#4 ++ 0#3 ++ 1#1 ++ i := rfl

theorem encode_pushReg (n : BitVec 4) :
    encode (.pushReg n) = 0xC#4 ++ 0#3 ++ 0#5 ++ n := rfl

theorem encode_int (i : BitVec 8) :
    encode (.int i) = 0xD#4 ++ 0#3 ++ 1#1 ++ i := rfl

theorem encode_jmpMem (a : BitVec 10) :
    encode (.jmpMem a) = encodeJumpMem 0x8#4 0#1 a := rfl

theorem encode_jmpReg (n : BitVec 4) :
    encode (.jmpReg n) = encodeJumpReg 0x8#4 0#1 n := rfl

theorem encode_ret :
    encode .ret = 0x5000#16 := rfl

theorem encode_boMem (a : BitVec 10) :
    encode (.boMem a) = encodeJumpMem 0x2#4 0#1 a := rfl

theorem encode_boReg (n : BitVec 4) :
    encode (.boReg n) = encodeJumpReg 0x2#4 0#1 n := rfl

theorem encode_bnoMem (a : BitVec 10) :
    encode (.bnoMem a) = encodeJumpMem 0x2#4 1#1 a := rfl

theorem encode_bnoReg (n : BitVec 4) :
    encode (.bnoReg n) = encodeJumpReg 0x2#4 1#1 n := rfl

theorem encode_blMem (a : BitVec 10) :
    encode (.blMem a) = encodeJumpMem 0x5#4 0#1 a := rfl

theorem encode_blReg (n : BitVec 4) :
    encode (.blReg n) = encodeJumpReg 0x5#4 0#1 n := rfl

theorem encode_bgMem (a : BitVec 10) :
    encode (.bgMem a) = encodeJumpMem 0x5#4 1#1 a := rfl

theorem encode_bgReg (n : BitVec 4) :
    encode (.bgReg n) = encodeJumpReg 0x5#4 1#1 n := rfl

theorem encode_bzMem (a : BitVec 10) :
    encode (.bzMem a) = encodeJumpMem 0x9#4 0#1 a := rfl

theorem encode_bzReg (n : BitVec 4) :
    encode (.bzReg n) = encodeJumpReg 0x9#4 0#1 n := rfl

theorem encode_bnzMem (a : BitVec 10) :
    encode (.bnzMem a) = encodeJumpMem 0x9#4 1#1 a := rfl

theorem encode_bnzReg (n : BitVec 4) :
    encode (.bnzReg n) = encodeJumpReg 0x9#4 1#1 n := rfl

/-! ### The decoder, by opcode -/

theorem decode_of_opcode_0 {w : Word} (h : field w 12 4 = 0x0#4) :
    decode w = .ok (.hlt (field w 0 12)) := by
  rw [decode, h]
  rfl

theorem decode_of_opcode_1 {w : Word} (h : field w 12 4 = 0x1#4) :
    decode w = decodeFormatA Instr.add w := by
  rw [decode, h]
  rfl

theorem decode_of_opcode_2 {w : Word} (h : field w 12 4 = 0x2#4) :
    decode w = decodeBcc .bo .bno w := by
  rw [decode, h]
  rfl

theorem decode_of_opcode_3 {w : Word} (h : field w 12 4 = 0x3#4) :
    decode w = decodePop w := by
  rw [decode, h]
  rfl

theorem decode_of_opcode_4 {w : Word} (h : field w 12 4 = 0x4#4) :
    decode w = decodeFormatA Instr.div w := by
  rw [decode, h]
  rfl

theorem decode_of_opcode_5 {w : Word} (h : field w 12 4 = 0x5#4) :
    decode w = if w = 0x5000#16 then .ok .ret else decodeBcc .bl .bg w := by
  rw [decode, h]
  rfl

theorem decode_of_opcode_6 {w : Word} (h : field w 12 4 = 0x6#4) :
    decode w = .ok (.ld (field w 9 3) (field w 0 9)) := by
  rw [decode, h]
  rfl

theorem decode_of_opcode_7 {w : Word} (h : field w 12 4 = 0x7#4) :
    decode w = decodeStore w := by
  rw [decode, h]
  rfl

theorem decode_of_opcode_8 {w : Word} (h : field w 12 4 = 0x8#4) :
    decode w = decodeJmp w := by
  rw [decode, h]
  rfl

theorem decode_of_opcode_9 {w : Word} (h : field w 12 4 = 0x9#4) :
    decode w = decodeBcc .bz .bnz w := by
  rw [decode, h]
  rfl

theorem decode_of_opcode_a {w : Word} (h : field w 12 4 = 0xA#4) :
    decode w = decodeFormatA Instr.cmp w := by
  rw [decode, h]
  rfl

theorem decode_of_opcode_b {w : Word} (h : field w 12 4 = 0xB#4) :
    decode w = decodeFormatA Instr.nand w := by
  rw [decode, h]
  rfl

theorem decode_of_opcode_c {w : Word} (h : field w 12 4 = 0xC#4) :
    decode w = decodePush w := by
  rw [decode, h]
  rfl

theorem decode_of_opcode_d {w : Word} (h : field w 12 4 = 0xD#4) :
    decode w = decodeInt w := by
  rw [decode, h]
  rfl

theorem decode_of_opcode_e {w : Word} (h : field w 12 4 = 0xE#4) :
    decode w = decodeFormatA Instr.mov w := by
  rw [decode, h]
  rfl

theorem decode_of_opcode_f {w : Word} (h : field w 12 4 = 0xF#4) :
    decode w = .ok (.lea (field w 9 3) (field w 0 9)) := by
  rw [decode, h]
  rfl

end Sys2Proof
end

