-- ==== Sys2Proof/Laws/Memory.lean ====
section
/-!
SUPPORT. The laws of the memory: what a read sees after each operation, that each operation keeps the canonical form,
and that equal reads mean equal memories.
-/

namespace Sys2Proof.Machine

@[simp] theorem Memory.read_nil (a : Nat) : Memory.read [] a = none := rfl

theorem Memory.read_cons (b : Nat) (w : Word) (m : Memory) (a : Nat) :
    Memory.read ((b, w) :: m) a = if a = b then some w else m.read a := rfl

/-- A memory whose addresses are all above `a` has nothing at `a`. -/
theorem Memory.read_eq_none_of_lt {m : Memory} {a : Nat} (h : ∀ p ∈ m, a < p.1) : m.read a = none := by
  induction m with
  | nil => rfl
  | cons p m ih =>
    have hp : a < p.1 := h p (by simp)
    rw [Memory.read_cons, if_neg (by omega)]
    exact ih fun q hq => h q (by simp [hq])

/-- Writing one cell is seen there and nowhere else; no form of the memory is needed. -/
@[simp] theorem Memory.read_write (m : Memory) (a : Nat) (v : Word) (b : Nat) :
    (m.write a v).read b = if b = a then some v else m.read b := by
  induction m with
  | nil => simp [Memory.write, Memory.read_cons]
  | cons p m ih =>
    obtain ⟨c, w⟩ := p
    simp only [Memory.write]
    split
    · simp [Memory.read_cons]
    · split
      · subst_vars
        simp only [Memory.read_cons]
        split <;> rfl
      · simp only [Memory.read_cons, ih]
        split <;> split <;> simp_all

/-- Erasing one cell is seen there and nowhere else. -/
theorem Memory.read_erase {m : Memory} (h : m.wf) (a b : Nat) :
    (m.erase a).read b = if b = a then none else m.read b := by
  induction m with
  | nil => simp [Memory.erase]
  | cons p m ih =>
    obtain ⟨c, w⟩ := p
    obtain ⟨hs, hb⟩ := h
    rw [List.pairwise_cons] at hs
    have hm : Memory.wf m := ⟨hs.2, fun q hq => hb q (by simp [hq])⟩
    simp only [Memory.erase]
    split
    · subst_vars
      simp only [Memory.read_cons]
      split
      · subst_vars
        exact Memory.read_eq_none_of_lt hs.1
      · rfl
    · simp only [Memory.read_cons, ih hm]
      split <;> split <;> simp_all

/-- Every address a write lists is the address written or one listed before. -/
theorem Memory.mem_write {m : Memory} {a : Nat} {v : Word} {p : Nat × Word} (h : p ∈ m.write a v) :
    p = (a, v) ∨ p ∈ m := by
  induction m with
  | nil => simpa [Memory.write] using h
  | cons q m ih =>
    obtain ⟨c, w⟩ := q
    simp only [Memory.write] at h
    split at h
    · simpa using h
    · split at h
      · rcases List.mem_cons.1 h with h | h
        · exact .inl h
        · exact .inr (by simp [h])
      · rcases List.mem_cons.1 h with h | h
        · exact .inr (by simp [h])
        · rcases ih h with h | h
          · exact .inl h
          · exact .inr (by simp [h])

/-- Everything an erase lists was listed before. -/
theorem Memory.mem_erase {m : Memory} {a : Nat} {p : Nat × Word} (h : p ∈ m.erase a) : p ∈ m := by
  induction m with
  | nil => exact h
  | cons q m ih =>
    obtain ⟨c, w⟩ := q
    simp only [Memory.erase] at h
    split at h
    · simp [h]
    · rcases List.mem_cons.1 h with h | h
      · simp [h]
      · simp [ih h]

/-- The empty memory is canonical. -/
theorem Memory.wf_nil : Memory.wf [] := ⟨List.Pairwise.nil, by simp⟩

/-- A write to an address keeps the canonical form. -/
theorem Memory.wf_write {m : Memory} (h : m.wf) {a : Nat} (ha : a < 65536) (v : Word) : (m.write a v).wf := by
  induction m with
  | nil => exact ⟨List.pairwise_singleton _ _, by simp [Memory.write, ha]⟩
  | cons p m ih =>
    obtain ⟨c, w⟩ := p
    obtain ⟨hs, hb⟩ := h
    have hs' := List.pairwise_cons.1 hs
    have hm : Memory.wf m := ⟨hs'.2, fun q hq => hb q (by simp [hq])⟩
    simp only [Memory.write]
    split
    · rename_i hac
      refine ⟨List.pairwise_cons.2 ⟨fun q hq => ?_, hs⟩, fun q hq => ?_⟩
      · rcases List.mem_cons.1 hq with rfl | hq
        · exact hac
        · exact Nat.lt_trans hac (hs'.1 q hq)
      · rcases List.mem_cons.1 hq with rfl | hq
        · exact ha
        · exact hb q hq
    · split
      · subst_vars
        refine ⟨List.pairwise_cons.2 ⟨hs'.1, hs'.2⟩, fun q hq => ?_⟩
        rcases List.mem_cons.1 hq with rfl | hq
        · exact ha
        · exact hm.2 q hq
      · rename_i h1 h2
        refine ⟨List.pairwise_cons.2 ⟨fun q hq => ?_, (ih hm).1⟩, fun q hq => ?_⟩
        · rcases Memory.mem_write hq with rfl | hq
          · simp only; omega
          · exact hs'.1 q hq
        · rcases List.mem_cons.1 hq with rfl | hq
          · exact hb _ (by simp)
          · exact (ih hm).2 q hq

/-- An erase keeps the canonical form. -/
theorem Memory.wf_erase {m : Memory} (h : m.wf) (a : Nat) : (m.erase a).wf := by
  induction m with
  | nil => exact Memory.wf_nil
  | cons p m ih =>
    obtain ⟨c, w⟩ := p
    obtain ⟨hs, hb⟩ := h
    have hs' := List.pairwise_cons.1 hs
    have hm : Memory.wf m := ⟨hs'.2, fun q hq => hb q (by simp [hq])⟩
    simp only [Memory.erase]
    split
    · exact hm
    · refine ⟨List.pairwise_cons.2 ⟨fun q hq => hs'.1 q (Memory.mem_erase hq), (ih hm).1⟩, fun q hq => ?_⟩
      rcases List.mem_cons.1 hq with rfl | hq
      · exact hb _ (by simp)
      · exact (ih hm).2 q hq

/-- Canonical memories that read alike are equal. -/
theorem Memory.eq_of_read {m k : Memory} (hm : m.wf) (hk : k.wf) (h : ∀ a, m.read a = k.read a) : m = k := by
  induction m generalizing k with
  | nil =>
    cases k with
    | nil => rfl
    | cons q k =>
      obtain ⟨d, x⟩ := q
      simpa [Memory.read_cons] using h d
  | cons p m ih =>
    obtain ⟨c, w⟩ := p
    have hs := List.pairwise_cons.1 hm.1
    have hm' : Memory.wf m := ⟨hs.2, fun q hq => hm.2 q (by simp [hq])⟩
    cases k with
    | nil => simpa [Memory.read_cons] using h c
    | cons q k =>
      obtain ⟨d, x⟩ := q
      have ks := List.pairwise_cons.1 hk.1
      have hk' : Memory.wf k := ⟨ks.2, fun q hq => hk.2 q (by simp [hq])⟩
      have hcd : c = d := by
        rcases Nat.lt_trichotomy c d with hlt | heq | hgt
        · have := h c
          rw [Memory.read_cons, if_pos rfl, Memory.read_cons, if_neg (by omega),
            Memory.read_eq_none_of_lt fun q hq => Nat.lt_trans hlt (ks.1 q hq)] at this
          simp at this
        · exact heq
        · have := h d
          rw [Memory.read_cons d x k, if_pos rfl, Memory.read_cons, if_neg (by omega),
            Memory.read_eq_none_of_lt fun q hq => Nat.lt_trans hgt (hs.1 q hq)] at this
          simp at this
      subst hcd
      have hwx : w = x := by simpa [Memory.read_cons] using h c
      subst hwx
      have : m = k := by
        refine ih hm' hk' fun a => ?_
        by_cases hac : a = c
        · subst hac
          rw [Memory.read_eq_none_of_lt hs.1, Memory.read_eq_none_of_lt ks.1]
        · simpa [Memory.read_cons, hac] using h a
      rw [this]

/-- Only addresses hold anything. -/
theorem Memory.lt_of_read {m : Memory} (h : m.wf) {a : Nat} {w : Word} (hr : m.read a = some w) : a < 65536 := by
  induction m with
  | nil => simp at hr
  | cons p m ih =>
    obtain ⟨c, x⟩ := p
    have hm : Memory.wf m := ⟨(List.pairwise_cons.1 h.1).2, fun q hq => h.2 q (by simp [hq])⟩
    rw [Memory.read_cons] at hr
    split at hr
    · subst_vars
      exact h.2 (_, x) (by simp)
    · exact ih hm hr

/-- The memory after reset is canonical. -/
theorem State.reset_mem_wf : State.reset.mem.wf := Memory.wf_nil

end Sys2Proof.Machine
end

