-- ==== Sys2Proof/Laws/State.lean ====
section
/-!
SUPPORT. What each update of the state leaves in each field: one lemma per field per update, so that no proof unfolds a
record update.
-/

namespace Sys2Proof.Machine

variable (s : State)

/-! ### setPc -/

@[simp] theorem State.setPc_r0 (v : Word) : (s.setPc v).r0 = s.r0 := rfl
@[simp] theorem State.setPc_r1 (v : Word) : (s.setPc v).r1 = s.r1 := rfl
@[simp] theorem State.setPc_r2 (v : Word) : (s.setPc v).r2 = s.r2 := rfl
@[simp] theorem State.setPc_r3 (v : Word) : (s.setPc v).r3 = s.r3 := rfl
@[simp] theorem State.setPc_r4 (v : Word) : (s.setPc v).r4 = s.r4 := rfl
@[simp] theorem State.setPc_r5 (v : Word) : (s.setPc v).r5 = s.r5 := rfl
@[simp] theorem State.setPc_r6 (v : Word) : (s.setPc v).r6 = s.r6 := rfl
@[simp] theorem State.setPc_r7 (v : Word) : (s.setPc v).r7 = s.r7 := rfl
@[simp] theorem State.setPc_pc (v : Word) : (s.setPc v).pc = v := rfl
@[simp] theorem State.setPc_sp (v : Word) : (s.setPc v).sp = s.sp := rfl
@[simp] theorem State.setPc_bp (v : Word) : (s.setPc v).bp = s.bp := rfl
@[simp] theorem State.setPc_ir (v : Word) : (s.setPc v).ir = s.ir := rfl
@[simp] theorem State.setPc_flagZ (v : Word) : (s.setPc v).flagZ = s.flagZ := rfl
@[simp] theorem State.setPc_flagS (v : Word) : (s.setPc v).flagS = s.flagS := rfl
@[simp] theorem State.setPc_flagO (v : Word) : (s.setPc v).flagO = s.flagO := rfl
@[simp] theorem State.setPc_flagR (v : Word) : (s.setPc v).flagR = s.flagR := rfl
@[simp] theorem State.setPc_pushRet (v : Word) : (s.setPc v).pushRet = s.pushRet := rfl
@[simp] theorem State.setPc_run (v : Word) : (s.setPc v).run = s.run := rfl
@[simp] theorem State.setPc_mem (v : Word) : (s.setPc v).mem = s.mem := rfl
@[simp] theorem State.setPc_out (v : Word) : (s.setPc v).out = s.out := rfl
@[simp] theorem State.setPc_inChars (v : Word) : (s.setPc v).inChars = s.inChars := rfl
@[simp] theorem State.setPc_inLines (v : Word) : (s.setPc v).inLines = s.inLines := rfl
@[simp] theorem State.setPc_draws (v : Word) : (s.setPc v).draws = s.draws := rfl
@[simp] theorem State.setPc_getWord (v : Word) (q : WordReg) : (s.setPc v).getWord q = s.getWord q := by
  cases q <;> rfl
@[simp] theorem State.setPc_getFloat (v : Word) (q : FloatReg) : (s.setPc v).getFloat q = s.getFloat q := by
  cases q <;> rfl

/-! ### setSp -/

@[simp] theorem State.setSp_r0 (v : Word) : (s.setSp v).r0 = s.r0 := rfl
@[simp] theorem State.setSp_r1 (v : Word) : (s.setSp v).r1 = s.r1 := rfl
@[simp] theorem State.setSp_r2 (v : Word) : (s.setSp v).r2 = s.r2 := rfl
@[simp] theorem State.setSp_r3 (v : Word) : (s.setSp v).r3 = s.r3 := rfl
@[simp] theorem State.setSp_r4 (v : Word) : (s.setSp v).r4 = s.r4 := rfl
@[simp] theorem State.setSp_r5 (v : Word) : (s.setSp v).r5 = s.r5 := rfl
@[simp] theorem State.setSp_r6 (v : Word) : (s.setSp v).r6 = s.r6 := rfl
@[simp] theorem State.setSp_r7 (v : Word) : (s.setSp v).r7 = s.r7 := rfl
@[simp] theorem State.setSp_pc (v : Word) : (s.setSp v).pc = s.pc := rfl
@[simp] theorem State.setSp_sp (v : Word) : (s.setSp v).sp = v := rfl
@[simp] theorem State.setSp_bp (v : Word) : (s.setSp v).bp = s.bp := rfl
@[simp] theorem State.setSp_ir (v : Word) : (s.setSp v).ir = s.ir := rfl
@[simp] theorem State.setSp_flagZ (v : Word) : (s.setSp v).flagZ = s.flagZ := rfl
@[simp] theorem State.setSp_flagS (v : Word) : (s.setSp v).flagS = s.flagS := rfl
@[simp] theorem State.setSp_flagO (v : Word) : (s.setSp v).flagO = s.flagO := rfl
@[simp] theorem State.setSp_flagR (v : Word) : (s.setSp v).flagR = s.flagR := rfl
@[simp] theorem State.setSp_pushRet (v : Word) : (s.setSp v).pushRet = s.pushRet := rfl
@[simp] theorem State.setSp_run (v : Word) : (s.setSp v).run = s.run := rfl
@[simp] theorem State.setSp_mem (v : Word) : (s.setSp v).mem = s.mem := rfl
@[simp] theorem State.setSp_out (v : Word) : (s.setSp v).out = s.out := rfl
@[simp] theorem State.setSp_inChars (v : Word) : (s.setSp v).inChars = s.inChars := rfl
@[simp] theorem State.setSp_inLines (v : Word) : (s.setSp v).inLines = s.inLines := rfl
@[simp] theorem State.setSp_draws (v : Word) : (s.setSp v).draws = s.draws := rfl
@[simp] theorem State.setSp_getWord (v : Word) (q : WordReg) : (s.setSp v).getWord q = s.getWord q := by
  cases q <;> rfl
@[simp] theorem State.setSp_getFloat (v : Word) (q : FloatReg) : (s.setSp v).getFloat q = s.getFloat q := by
  cases q <;> rfl

/-! ### setBp -/

@[simp] theorem State.setBp_r0 (v : Word) : (s.setBp v).r0 = s.r0 := rfl
@[simp] theorem State.setBp_r1 (v : Word) : (s.setBp v).r1 = s.r1 := rfl
@[simp] theorem State.setBp_r2 (v : Word) : (s.setBp v).r2 = s.r2 := rfl
@[simp] theorem State.setBp_r3 (v : Word) : (s.setBp v).r3 = s.r3 := rfl
@[simp] theorem State.setBp_r4 (v : Word) : (s.setBp v).r4 = s.r4 := rfl
@[simp] theorem State.setBp_r5 (v : Word) : (s.setBp v).r5 = s.r5 := rfl
@[simp] theorem State.setBp_r6 (v : Word) : (s.setBp v).r6 = s.r6 := rfl
@[simp] theorem State.setBp_r7 (v : Word) : (s.setBp v).r7 = s.r7 := rfl
@[simp] theorem State.setBp_pc (v : Word) : (s.setBp v).pc = s.pc := rfl
@[simp] theorem State.setBp_sp (v : Word) : (s.setBp v).sp = s.sp := rfl
@[simp] theorem State.setBp_bp (v : Word) : (s.setBp v).bp = v := rfl
@[simp] theorem State.setBp_ir (v : Word) : (s.setBp v).ir = s.ir := rfl
@[simp] theorem State.setBp_flagZ (v : Word) : (s.setBp v).flagZ = s.flagZ := rfl
@[simp] theorem State.setBp_flagS (v : Word) : (s.setBp v).flagS = s.flagS := rfl
@[simp] theorem State.setBp_flagO (v : Word) : (s.setBp v).flagO = s.flagO := rfl
@[simp] theorem State.setBp_flagR (v : Word) : (s.setBp v).flagR = s.flagR := rfl
@[simp] theorem State.setBp_pushRet (v : Word) : (s.setBp v).pushRet = s.pushRet := rfl
@[simp] theorem State.setBp_run (v : Word) : (s.setBp v).run = s.run := rfl
@[simp] theorem State.setBp_mem (v : Word) : (s.setBp v).mem = s.mem := rfl
@[simp] theorem State.setBp_out (v : Word) : (s.setBp v).out = s.out := rfl
@[simp] theorem State.setBp_inChars (v : Word) : (s.setBp v).inChars = s.inChars := rfl
@[simp] theorem State.setBp_inLines (v : Word) : (s.setBp v).inLines = s.inLines := rfl
@[simp] theorem State.setBp_draws (v : Word) : (s.setBp v).draws = s.draws := rfl
@[simp] theorem State.setBp_getWord (v : Word) (q : WordReg) : (s.setBp v).getWord q = s.getWord q := by
  cases q <;> rfl
@[simp] theorem State.setBp_getFloat (v : Word) (q : FloatReg) : (s.setBp v).getFloat q = s.getFloat q := by
  cases q <;> rfl

/-! ### setIr -/

@[simp] theorem State.setIr_r0 (v : Word) : (s.setIr v).r0 = s.r0 := rfl
@[simp] theorem State.setIr_r1 (v : Word) : (s.setIr v).r1 = s.r1 := rfl
@[simp] theorem State.setIr_r2 (v : Word) : (s.setIr v).r2 = s.r2 := rfl
@[simp] theorem State.setIr_r3 (v : Word) : (s.setIr v).r3 = s.r3 := rfl
@[simp] theorem State.setIr_r4 (v : Word) : (s.setIr v).r4 = s.r4 := rfl
@[simp] theorem State.setIr_r5 (v : Word) : (s.setIr v).r5 = s.r5 := rfl
@[simp] theorem State.setIr_r6 (v : Word) : (s.setIr v).r6 = s.r6 := rfl
@[simp] theorem State.setIr_r7 (v : Word) : (s.setIr v).r7 = s.r7 := rfl
@[simp] theorem State.setIr_pc (v : Word) : (s.setIr v).pc = s.pc := rfl
@[simp] theorem State.setIr_sp (v : Word) : (s.setIr v).sp = s.sp := rfl
@[simp] theorem State.setIr_bp (v : Word) : (s.setIr v).bp = s.bp := rfl
@[simp] theorem State.setIr_ir (v : Word) : (s.setIr v).ir = v := rfl
@[simp] theorem State.setIr_flagZ (v : Word) : (s.setIr v).flagZ = s.flagZ := rfl
@[simp] theorem State.setIr_flagS (v : Word) : (s.setIr v).flagS = s.flagS := rfl
@[simp] theorem State.setIr_flagO (v : Word) : (s.setIr v).flagO = s.flagO := rfl
@[simp] theorem State.setIr_flagR (v : Word) : (s.setIr v).flagR = s.flagR := rfl
@[simp] theorem State.setIr_pushRet (v : Word) : (s.setIr v).pushRet = s.pushRet := rfl
@[simp] theorem State.setIr_run (v : Word) : (s.setIr v).run = s.run := rfl
@[simp] theorem State.setIr_mem (v : Word) : (s.setIr v).mem = s.mem := rfl
@[simp] theorem State.setIr_out (v : Word) : (s.setIr v).out = s.out := rfl
@[simp] theorem State.setIr_inChars (v : Word) : (s.setIr v).inChars = s.inChars := rfl
@[simp] theorem State.setIr_inLines (v : Word) : (s.setIr v).inLines = s.inLines := rfl
@[simp] theorem State.setIr_draws (v : Word) : (s.setIr v).draws = s.draws := rfl
@[simp] theorem State.setIr_getWord (v : Word) (q : WordReg) : (s.setIr v).getWord q = s.getWord q := by
  cases q <;> rfl
@[simp] theorem State.setIr_getFloat (v : Word) (q : FloatReg) : (s.setIr v).getFloat q = s.getFloat q := by
  cases q <;> rfl

/-! ### setZ -/

@[simp] theorem State.setZ_r0 (b : Bool) : (s.setZ b).r0 = s.r0 := rfl
@[simp] theorem State.setZ_r1 (b : Bool) : (s.setZ b).r1 = s.r1 := rfl
@[simp] theorem State.setZ_r2 (b : Bool) : (s.setZ b).r2 = s.r2 := rfl
@[simp] theorem State.setZ_r3 (b : Bool) : (s.setZ b).r3 = s.r3 := rfl
@[simp] theorem State.setZ_r4 (b : Bool) : (s.setZ b).r4 = s.r4 := rfl
@[simp] theorem State.setZ_r5 (b : Bool) : (s.setZ b).r5 = s.r5 := rfl
@[simp] theorem State.setZ_r6 (b : Bool) : (s.setZ b).r6 = s.r6 := rfl
@[simp] theorem State.setZ_r7 (b : Bool) : (s.setZ b).r7 = s.r7 := rfl
@[simp] theorem State.setZ_pc (b : Bool) : (s.setZ b).pc = s.pc := rfl
@[simp] theorem State.setZ_sp (b : Bool) : (s.setZ b).sp = s.sp := rfl
@[simp] theorem State.setZ_bp (b : Bool) : (s.setZ b).bp = s.bp := rfl
@[simp] theorem State.setZ_ir (b : Bool) : (s.setZ b).ir = s.ir := rfl
@[simp] theorem State.setZ_flagZ (b : Bool) : (s.setZ b).flagZ = b := rfl
@[simp] theorem State.setZ_flagS (b : Bool) : (s.setZ b).flagS = s.flagS := rfl
@[simp] theorem State.setZ_flagO (b : Bool) : (s.setZ b).flagO = s.flagO := rfl
@[simp] theorem State.setZ_flagR (b : Bool) : (s.setZ b).flagR = s.flagR := rfl
@[simp] theorem State.setZ_pushRet (b : Bool) : (s.setZ b).pushRet = s.pushRet := rfl
@[simp] theorem State.setZ_run (b : Bool) : (s.setZ b).run = s.run := rfl
@[simp] theorem State.setZ_mem (b : Bool) : (s.setZ b).mem = s.mem := rfl
@[simp] theorem State.setZ_out (b : Bool) : (s.setZ b).out = s.out := rfl
@[simp] theorem State.setZ_inChars (b : Bool) : (s.setZ b).inChars = s.inChars := rfl
@[simp] theorem State.setZ_inLines (b : Bool) : (s.setZ b).inLines = s.inLines := rfl
@[simp] theorem State.setZ_draws (b : Bool) : (s.setZ b).draws = s.draws := rfl
@[simp] theorem State.setZ_getWord (b : Bool) (q : WordReg) : (s.setZ b).getWord q = s.getWord q := by
  cases q <;> rfl
@[simp] theorem State.setZ_getFloat (b : Bool) (q : FloatReg) : (s.setZ b).getFloat q = s.getFloat q := by
  cases q <;> rfl

/-! ### setS -/

@[simp] theorem State.setS_r0 (b : Bool) : (s.setS b).r0 = s.r0 := rfl
@[simp] theorem State.setS_r1 (b : Bool) : (s.setS b).r1 = s.r1 := rfl
@[simp] theorem State.setS_r2 (b : Bool) : (s.setS b).r2 = s.r2 := rfl
@[simp] theorem State.setS_r3 (b : Bool) : (s.setS b).r3 = s.r3 := rfl
@[simp] theorem State.setS_r4 (b : Bool) : (s.setS b).r4 = s.r4 := rfl
@[simp] theorem State.setS_r5 (b : Bool) : (s.setS b).r5 = s.r5 := rfl
@[simp] theorem State.setS_r6 (b : Bool) : (s.setS b).r6 = s.r6 := rfl
@[simp] theorem State.setS_r7 (b : Bool) : (s.setS b).r7 = s.r7 := rfl
@[simp] theorem State.setS_pc (b : Bool) : (s.setS b).pc = s.pc := rfl
@[simp] theorem State.setS_sp (b : Bool) : (s.setS b).sp = s.sp := rfl
@[simp] theorem State.setS_bp (b : Bool) : (s.setS b).bp = s.bp := rfl
@[simp] theorem State.setS_ir (b : Bool) : (s.setS b).ir = s.ir := rfl
@[simp] theorem State.setS_flagZ (b : Bool) : (s.setS b).flagZ = s.flagZ := rfl
@[simp] theorem State.setS_flagS (b : Bool) : (s.setS b).flagS = b := rfl
@[simp] theorem State.setS_flagO (b : Bool) : (s.setS b).flagO = s.flagO := rfl
@[simp] theorem State.setS_flagR (b : Bool) : (s.setS b).flagR = s.flagR := rfl
@[simp] theorem State.setS_pushRet (b : Bool) : (s.setS b).pushRet = s.pushRet := rfl
@[simp] theorem State.setS_run (b : Bool) : (s.setS b).run = s.run := rfl
@[simp] theorem State.setS_mem (b : Bool) : (s.setS b).mem = s.mem := rfl
@[simp] theorem State.setS_out (b : Bool) : (s.setS b).out = s.out := rfl
@[simp] theorem State.setS_inChars (b : Bool) : (s.setS b).inChars = s.inChars := rfl
@[simp] theorem State.setS_inLines (b : Bool) : (s.setS b).inLines = s.inLines := rfl
@[simp] theorem State.setS_draws (b : Bool) : (s.setS b).draws = s.draws := rfl
@[simp] theorem State.setS_getWord (b : Bool) (q : WordReg) : (s.setS b).getWord q = s.getWord q := by
  cases q <;> rfl
@[simp] theorem State.setS_getFloat (b : Bool) (q : FloatReg) : (s.setS b).getFloat q = s.getFloat q := by
  cases q <;> rfl

/-! ### setO -/

@[simp] theorem State.setO_r0 (b : Bool) : (s.setO b).r0 = s.r0 := rfl
@[simp] theorem State.setO_r1 (b : Bool) : (s.setO b).r1 = s.r1 := rfl
@[simp] theorem State.setO_r2 (b : Bool) : (s.setO b).r2 = s.r2 := rfl
@[simp] theorem State.setO_r3 (b : Bool) : (s.setO b).r3 = s.r3 := rfl
@[simp] theorem State.setO_r4 (b : Bool) : (s.setO b).r4 = s.r4 := rfl
@[simp] theorem State.setO_r5 (b : Bool) : (s.setO b).r5 = s.r5 := rfl
@[simp] theorem State.setO_r6 (b : Bool) : (s.setO b).r6 = s.r6 := rfl
@[simp] theorem State.setO_r7 (b : Bool) : (s.setO b).r7 = s.r7 := rfl
@[simp] theorem State.setO_pc (b : Bool) : (s.setO b).pc = s.pc := rfl
@[simp] theorem State.setO_sp (b : Bool) : (s.setO b).sp = s.sp := rfl
@[simp] theorem State.setO_bp (b : Bool) : (s.setO b).bp = s.bp := rfl
@[simp] theorem State.setO_ir (b : Bool) : (s.setO b).ir = s.ir := rfl
@[simp] theorem State.setO_flagZ (b : Bool) : (s.setO b).flagZ = s.flagZ := rfl
@[simp] theorem State.setO_flagS (b : Bool) : (s.setO b).flagS = s.flagS := rfl
@[simp] theorem State.setO_flagO (b : Bool) : (s.setO b).flagO = b := rfl
@[simp] theorem State.setO_flagR (b : Bool) : (s.setO b).flagR = s.flagR := rfl
@[simp] theorem State.setO_pushRet (b : Bool) : (s.setO b).pushRet = s.pushRet := rfl
@[simp] theorem State.setO_run (b : Bool) : (s.setO b).run = s.run := rfl
@[simp] theorem State.setO_mem (b : Bool) : (s.setO b).mem = s.mem := rfl
@[simp] theorem State.setO_out (b : Bool) : (s.setO b).out = s.out := rfl
@[simp] theorem State.setO_inChars (b : Bool) : (s.setO b).inChars = s.inChars := rfl
@[simp] theorem State.setO_inLines (b : Bool) : (s.setO b).inLines = s.inLines := rfl
@[simp] theorem State.setO_draws (b : Bool) : (s.setO b).draws = s.draws := rfl
@[simp] theorem State.setO_getWord (b : Bool) (q : WordReg) : (s.setO b).getWord q = s.getWord q := by
  cases q <;> rfl
@[simp] theorem State.setO_getFloat (b : Bool) (q : FloatReg) : (s.setO b).getFloat q = s.getFloat q := by
  cases q <;> rfl

/-! ### setR -/

@[simp] theorem State.setR_r0 (b : Bool) : (s.setR b).r0 = s.r0 := rfl
@[simp] theorem State.setR_r1 (b : Bool) : (s.setR b).r1 = s.r1 := rfl
@[simp] theorem State.setR_r2 (b : Bool) : (s.setR b).r2 = s.r2 := rfl
@[simp] theorem State.setR_r3 (b : Bool) : (s.setR b).r3 = s.r3 := rfl
@[simp] theorem State.setR_r4 (b : Bool) : (s.setR b).r4 = s.r4 := rfl
@[simp] theorem State.setR_r5 (b : Bool) : (s.setR b).r5 = s.r5 := rfl
@[simp] theorem State.setR_r6 (b : Bool) : (s.setR b).r6 = s.r6 := rfl
@[simp] theorem State.setR_r7 (b : Bool) : (s.setR b).r7 = s.r7 := rfl
@[simp] theorem State.setR_pc (b : Bool) : (s.setR b).pc = s.pc := rfl
@[simp] theorem State.setR_sp (b : Bool) : (s.setR b).sp = s.sp := rfl
@[simp] theorem State.setR_bp (b : Bool) : (s.setR b).bp = s.bp := rfl
@[simp] theorem State.setR_ir (b : Bool) : (s.setR b).ir = s.ir := rfl
@[simp] theorem State.setR_flagZ (b : Bool) : (s.setR b).flagZ = s.flagZ := rfl
@[simp] theorem State.setR_flagS (b : Bool) : (s.setR b).flagS = s.flagS := rfl
@[simp] theorem State.setR_flagO (b : Bool) : (s.setR b).flagO = s.flagO := rfl
@[simp] theorem State.setR_flagR (b : Bool) : (s.setR b).flagR = b := rfl
@[simp] theorem State.setR_pushRet (b : Bool) : (s.setR b).pushRet = s.pushRet := rfl
@[simp] theorem State.setR_run (b : Bool) : (s.setR b).run = s.run := rfl
@[simp] theorem State.setR_mem (b : Bool) : (s.setR b).mem = s.mem := rfl
@[simp] theorem State.setR_out (b : Bool) : (s.setR b).out = s.out := rfl
@[simp] theorem State.setR_inChars (b : Bool) : (s.setR b).inChars = s.inChars := rfl
@[simp] theorem State.setR_inLines (b : Bool) : (s.setR b).inLines = s.inLines := rfl
@[simp] theorem State.setR_draws (b : Bool) : (s.setR b).draws = s.draws := rfl
@[simp] theorem State.setR_getWord (b : Bool) (q : WordReg) : (s.setR b).getWord q = s.getWord q := by
  cases q <;> rfl
@[simp] theorem State.setR_getFloat (b : Bool) (q : FloatReg) : (s.setR b).getFloat q = s.getFloat q := by
  cases q <;> rfl

/-! ### setPushRet -/

@[simp] theorem State.setPushRet_r0 (b : Bool) : (s.setPushRet b).r0 = s.r0 := rfl
@[simp] theorem State.setPushRet_r1 (b : Bool) : (s.setPushRet b).r1 = s.r1 := rfl
@[simp] theorem State.setPushRet_r2 (b : Bool) : (s.setPushRet b).r2 = s.r2 := rfl
@[simp] theorem State.setPushRet_r3 (b : Bool) : (s.setPushRet b).r3 = s.r3 := rfl
@[simp] theorem State.setPushRet_r4 (b : Bool) : (s.setPushRet b).r4 = s.r4 := rfl
@[simp] theorem State.setPushRet_r5 (b : Bool) : (s.setPushRet b).r5 = s.r5 := rfl
@[simp] theorem State.setPushRet_r6 (b : Bool) : (s.setPushRet b).r6 = s.r6 := rfl
@[simp] theorem State.setPushRet_r7 (b : Bool) : (s.setPushRet b).r7 = s.r7 := rfl
@[simp] theorem State.setPushRet_pc (b : Bool) : (s.setPushRet b).pc = s.pc := rfl
@[simp] theorem State.setPushRet_sp (b : Bool) : (s.setPushRet b).sp = s.sp := rfl
@[simp] theorem State.setPushRet_bp (b : Bool) : (s.setPushRet b).bp = s.bp := rfl
@[simp] theorem State.setPushRet_ir (b : Bool) : (s.setPushRet b).ir = s.ir := rfl
@[simp] theorem State.setPushRet_flagZ (b : Bool) : (s.setPushRet b).flagZ = s.flagZ := rfl
@[simp] theorem State.setPushRet_flagS (b : Bool) : (s.setPushRet b).flagS = s.flagS := rfl
@[simp] theorem State.setPushRet_flagO (b : Bool) : (s.setPushRet b).flagO = s.flagO := rfl
@[simp] theorem State.setPushRet_flagR (b : Bool) : (s.setPushRet b).flagR = s.flagR := rfl
@[simp] theorem State.setPushRet_pushRet (b : Bool) : (s.setPushRet b).pushRet = b := rfl
@[simp] theorem State.setPushRet_run (b : Bool) : (s.setPushRet b).run = s.run := rfl
@[simp] theorem State.setPushRet_mem (b : Bool) : (s.setPushRet b).mem = s.mem := rfl
@[simp] theorem State.setPushRet_out (b : Bool) : (s.setPushRet b).out = s.out := rfl
@[simp] theorem State.setPushRet_inChars (b : Bool) : (s.setPushRet b).inChars = s.inChars := rfl
@[simp] theorem State.setPushRet_inLines (b : Bool) : (s.setPushRet b).inLines = s.inLines := rfl
@[simp] theorem State.setPushRet_draws (b : Bool) : (s.setPushRet b).draws = s.draws := rfl
@[simp] theorem State.setPushRet_getWord (b : Bool) (q : WordReg) : (s.setPushRet b).getWord q = s.getWord q := by
  cases q <;> rfl
@[simp] theorem State.setPushRet_getFloat (b : Bool) (q : FloatReg) : (s.setPushRet b).getFloat q = s.getFloat q := by
  cases q <;> rfl

/-! ### setRun -/

@[simp] theorem State.setRun_r0 (r : RunState) : (s.setRun r).r0 = s.r0 := rfl
@[simp] theorem State.setRun_r1 (r : RunState) : (s.setRun r).r1 = s.r1 := rfl
@[simp] theorem State.setRun_r2 (r : RunState) : (s.setRun r).r2 = s.r2 := rfl
@[simp] theorem State.setRun_r3 (r : RunState) : (s.setRun r).r3 = s.r3 := rfl
@[simp] theorem State.setRun_r4 (r : RunState) : (s.setRun r).r4 = s.r4 := rfl
@[simp] theorem State.setRun_r5 (r : RunState) : (s.setRun r).r5 = s.r5 := rfl
@[simp] theorem State.setRun_r6 (r : RunState) : (s.setRun r).r6 = s.r6 := rfl
@[simp] theorem State.setRun_r7 (r : RunState) : (s.setRun r).r7 = s.r7 := rfl
@[simp] theorem State.setRun_pc (r : RunState) : (s.setRun r).pc = s.pc := rfl
@[simp] theorem State.setRun_sp (r : RunState) : (s.setRun r).sp = s.sp := rfl
@[simp] theorem State.setRun_bp (r : RunState) : (s.setRun r).bp = s.bp := rfl
@[simp] theorem State.setRun_ir (r : RunState) : (s.setRun r).ir = s.ir := rfl
@[simp] theorem State.setRun_flagZ (r : RunState) : (s.setRun r).flagZ = s.flagZ := rfl
@[simp] theorem State.setRun_flagS (r : RunState) : (s.setRun r).flagS = s.flagS := rfl
@[simp] theorem State.setRun_flagO (r : RunState) : (s.setRun r).flagO = s.flagO := rfl
@[simp] theorem State.setRun_flagR (r : RunState) : (s.setRun r).flagR = s.flagR := rfl
@[simp] theorem State.setRun_pushRet (r : RunState) : (s.setRun r).pushRet = s.pushRet := rfl
@[simp] theorem State.setRun_run (r : RunState) : (s.setRun r).run = r := rfl
@[simp] theorem State.setRun_mem (r : RunState) : (s.setRun r).mem = s.mem := rfl
@[simp] theorem State.setRun_out (r : RunState) : (s.setRun r).out = s.out := rfl
@[simp] theorem State.setRun_inChars (r : RunState) : (s.setRun r).inChars = s.inChars := rfl
@[simp] theorem State.setRun_inLines (r : RunState) : (s.setRun r).inLines = s.inLines := rfl
@[simp] theorem State.setRun_draws (r : RunState) : (s.setRun r).draws = s.draws := rfl
@[simp] theorem State.setRun_getWord (r : RunState) (q : WordReg) : (s.setRun r).getWord q = s.getWord q := by
  cases q <;> rfl
@[simp] theorem State.setRun_getFloat (r : RunState) (q : FloatReg) : (s.setRun r).getFloat q = s.getFloat q := by
  cases q <;> rfl

/-! ### setMem -/

@[simp] theorem State.setMem_r0 (m : Memory) : (s.setMem m).r0 = s.r0 := rfl
@[simp] theorem State.setMem_r1 (m : Memory) : (s.setMem m).r1 = s.r1 := rfl
@[simp] theorem State.setMem_r2 (m : Memory) : (s.setMem m).r2 = s.r2 := rfl
@[simp] theorem State.setMem_r3 (m : Memory) : (s.setMem m).r3 = s.r3 := rfl
@[simp] theorem State.setMem_r4 (m : Memory) : (s.setMem m).r4 = s.r4 := rfl
@[simp] theorem State.setMem_r5 (m : Memory) : (s.setMem m).r5 = s.r5 := rfl
@[simp] theorem State.setMem_r6 (m : Memory) : (s.setMem m).r6 = s.r6 := rfl
@[simp] theorem State.setMem_r7 (m : Memory) : (s.setMem m).r7 = s.r7 := rfl
@[simp] theorem State.setMem_pc (m : Memory) : (s.setMem m).pc = s.pc := rfl
@[simp] theorem State.setMem_sp (m : Memory) : (s.setMem m).sp = s.sp := rfl
@[simp] theorem State.setMem_bp (m : Memory) : (s.setMem m).bp = s.bp := rfl
@[simp] theorem State.setMem_ir (m : Memory) : (s.setMem m).ir = s.ir := rfl
@[simp] theorem State.setMem_flagZ (m : Memory) : (s.setMem m).flagZ = s.flagZ := rfl
@[simp] theorem State.setMem_flagS (m : Memory) : (s.setMem m).flagS = s.flagS := rfl
@[simp] theorem State.setMem_flagO (m : Memory) : (s.setMem m).flagO = s.flagO := rfl
@[simp] theorem State.setMem_flagR (m : Memory) : (s.setMem m).flagR = s.flagR := rfl
@[simp] theorem State.setMem_pushRet (m : Memory) : (s.setMem m).pushRet = s.pushRet := rfl
@[simp] theorem State.setMem_run (m : Memory) : (s.setMem m).run = s.run := rfl
@[simp] theorem State.setMem_mem (m : Memory) : (s.setMem m).mem = m := rfl
@[simp] theorem State.setMem_out (m : Memory) : (s.setMem m).out = s.out := rfl
@[simp] theorem State.setMem_inChars (m : Memory) : (s.setMem m).inChars = s.inChars := rfl
@[simp] theorem State.setMem_inLines (m : Memory) : (s.setMem m).inLines = s.inLines := rfl
@[simp] theorem State.setMem_draws (m : Memory) : (s.setMem m).draws = s.draws := rfl
@[simp] theorem State.setMem_getWord (m : Memory) (q : WordReg) : (s.setMem m).getWord q = s.getWord q := by
  cases q <;> rfl
@[simp] theorem State.setMem_getFloat (m : Memory) (q : FloatReg) : (s.setMem m).getFloat q = s.getFloat q := by
  cases q <;> rfl

/-! ### emit -/

@[simp] theorem State.emit_r0 (es : List OutEvent) : (s.emit es).r0 = s.r0 := rfl
@[simp] theorem State.emit_r1 (es : List OutEvent) : (s.emit es).r1 = s.r1 := rfl
@[simp] theorem State.emit_r2 (es : List OutEvent) : (s.emit es).r2 = s.r2 := rfl
@[simp] theorem State.emit_r3 (es : List OutEvent) : (s.emit es).r3 = s.r3 := rfl
@[simp] theorem State.emit_r4 (es : List OutEvent) : (s.emit es).r4 = s.r4 := rfl
@[simp] theorem State.emit_r5 (es : List OutEvent) : (s.emit es).r5 = s.r5 := rfl
@[simp] theorem State.emit_r6 (es : List OutEvent) : (s.emit es).r6 = s.r6 := rfl
@[simp] theorem State.emit_r7 (es : List OutEvent) : (s.emit es).r7 = s.r7 := rfl
@[simp] theorem State.emit_pc (es : List OutEvent) : (s.emit es).pc = s.pc := rfl
@[simp] theorem State.emit_sp (es : List OutEvent) : (s.emit es).sp = s.sp := rfl
@[simp] theorem State.emit_bp (es : List OutEvent) : (s.emit es).bp = s.bp := rfl
@[simp] theorem State.emit_ir (es : List OutEvent) : (s.emit es).ir = s.ir := rfl
@[simp] theorem State.emit_flagZ (es : List OutEvent) : (s.emit es).flagZ = s.flagZ := rfl
@[simp] theorem State.emit_flagS (es : List OutEvent) : (s.emit es).flagS = s.flagS := rfl
@[simp] theorem State.emit_flagO (es : List OutEvent) : (s.emit es).flagO = s.flagO := rfl
@[simp] theorem State.emit_flagR (es : List OutEvent) : (s.emit es).flagR = s.flagR := rfl
@[simp] theorem State.emit_pushRet (es : List OutEvent) : (s.emit es).pushRet = s.pushRet := rfl
@[simp] theorem State.emit_run (es : List OutEvent) : (s.emit es).run = s.run := rfl
@[simp] theorem State.emit_mem (es : List OutEvent) : (s.emit es).mem = s.mem := rfl
@[simp] theorem State.emit_out (es : List OutEvent) : (s.emit es).out = s.out ++ es := rfl
@[simp] theorem State.emit_inChars (es : List OutEvent) : (s.emit es).inChars = s.inChars := rfl
@[simp] theorem State.emit_inLines (es : List OutEvent) : (s.emit es).inLines = s.inLines := rfl
@[simp] theorem State.emit_draws (es : List OutEvent) : (s.emit es).draws = s.draws := rfl
@[simp] theorem State.emit_getWord (es : List OutEvent) (q : WordReg) : (s.emit es).getWord q = s.getWord q := by
  cases q <;> rfl
@[simp] theorem State.emit_getFloat (es : List OutEvent) (q : FloatReg) : (s.emit es).getFloat q = s.getFloat q := by
  cases q <;> rfl

/-! ### setInChars -/

@[simp] theorem State.setInChars_r0 (cs : List CharDraw) : (s.setInChars cs).r0 = s.r0 := rfl
@[simp] theorem State.setInChars_r1 (cs : List CharDraw) : (s.setInChars cs).r1 = s.r1 := rfl
@[simp] theorem State.setInChars_r2 (cs : List CharDraw) : (s.setInChars cs).r2 = s.r2 := rfl
@[simp] theorem State.setInChars_r3 (cs : List CharDraw) : (s.setInChars cs).r3 = s.r3 := rfl
@[simp] theorem State.setInChars_r4 (cs : List CharDraw) : (s.setInChars cs).r4 = s.r4 := rfl
@[simp] theorem State.setInChars_r5 (cs : List CharDraw) : (s.setInChars cs).r5 = s.r5 := rfl
@[simp] theorem State.setInChars_r6 (cs : List CharDraw) : (s.setInChars cs).r6 = s.r6 := rfl
@[simp] theorem State.setInChars_r7 (cs : List CharDraw) : (s.setInChars cs).r7 = s.r7 := rfl
@[simp] theorem State.setInChars_pc (cs : List CharDraw) : (s.setInChars cs).pc = s.pc := rfl
@[simp] theorem State.setInChars_sp (cs : List CharDraw) : (s.setInChars cs).sp = s.sp := rfl
@[simp] theorem State.setInChars_bp (cs : List CharDraw) : (s.setInChars cs).bp = s.bp := rfl
@[simp] theorem State.setInChars_ir (cs : List CharDraw) : (s.setInChars cs).ir = s.ir := rfl
@[simp] theorem State.setInChars_flagZ (cs : List CharDraw) : (s.setInChars cs).flagZ = s.flagZ := rfl
@[simp] theorem State.setInChars_flagS (cs : List CharDraw) : (s.setInChars cs).flagS = s.flagS := rfl
@[simp] theorem State.setInChars_flagO (cs : List CharDraw) : (s.setInChars cs).flagO = s.flagO := rfl
@[simp] theorem State.setInChars_flagR (cs : List CharDraw) : (s.setInChars cs).flagR = s.flagR := rfl
@[simp] theorem State.setInChars_pushRet (cs : List CharDraw) : (s.setInChars cs).pushRet = s.pushRet := rfl
@[simp] theorem State.setInChars_run (cs : List CharDraw) : (s.setInChars cs).run = s.run := rfl
@[simp] theorem State.setInChars_mem (cs : List CharDraw) : (s.setInChars cs).mem = s.mem := rfl
@[simp] theorem State.setInChars_out (cs : List CharDraw) : (s.setInChars cs).out = s.out := rfl
@[simp] theorem State.setInChars_inChars (cs : List CharDraw) : (s.setInChars cs).inChars = cs := rfl
@[simp] theorem State.setInChars_inLines (cs : List CharDraw) : (s.setInChars cs).inLines = s.inLines := rfl
@[simp] theorem State.setInChars_draws (cs : List CharDraw) : (s.setInChars cs).draws = s.draws := rfl
@[simp] theorem State.setInChars_getWord (cs : List CharDraw) (q : WordReg) : (s.setInChars cs).getWord q = s.getWord q := by
  cases q <;> rfl
@[simp] theorem State.setInChars_getFloat (cs : List CharDraw) (q : FloatReg) : (s.setInChars cs).getFloat q = s.getFloat q := by
  cases q <;> rfl

/-! ### setInLines -/

@[simp] theorem State.setInLines_r0 (ls : List LineDraw) : (s.setInLines ls).r0 = s.r0 := rfl
@[simp] theorem State.setInLines_r1 (ls : List LineDraw) : (s.setInLines ls).r1 = s.r1 := rfl
@[simp] theorem State.setInLines_r2 (ls : List LineDraw) : (s.setInLines ls).r2 = s.r2 := rfl
@[simp] theorem State.setInLines_r3 (ls : List LineDraw) : (s.setInLines ls).r3 = s.r3 := rfl
@[simp] theorem State.setInLines_r4 (ls : List LineDraw) : (s.setInLines ls).r4 = s.r4 := rfl
@[simp] theorem State.setInLines_r5 (ls : List LineDraw) : (s.setInLines ls).r5 = s.r5 := rfl
@[simp] theorem State.setInLines_r6 (ls : List LineDraw) : (s.setInLines ls).r6 = s.r6 := rfl
@[simp] theorem State.setInLines_r7 (ls : List LineDraw) : (s.setInLines ls).r7 = s.r7 := rfl
@[simp] theorem State.setInLines_pc (ls : List LineDraw) : (s.setInLines ls).pc = s.pc := rfl
@[simp] theorem State.setInLines_sp (ls : List LineDraw) : (s.setInLines ls).sp = s.sp := rfl
@[simp] theorem State.setInLines_bp (ls : List LineDraw) : (s.setInLines ls).bp = s.bp := rfl
@[simp] theorem State.setInLines_ir (ls : List LineDraw) : (s.setInLines ls).ir = s.ir := rfl
@[simp] theorem State.setInLines_flagZ (ls : List LineDraw) : (s.setInLines ls).flagZ = s.flagZ := rfl
@[simp] theorem State.setInLines_flagS (ls : List LineDraw) : (s.setInLines ls).flagS = s.flagS := rfl
@[simp] theorem State.setInLines_flagO (ls : List LineDraw) : (s.setInLines ls).flagO = s.flagO := rfl
@[simp] theorem State.setInLines_flagR (ls : List LineDraw) : (s.setInLines ls).flagR = s.flagR := rfl
@[simp] theorem State.setInLines_pushRet (ls : List LineDraw) : (s.setInLines ls).pushRet = s.pushRet := rfl
@[simp] theorem State.setInLines_run (ls : List LineDraw) : (s.setInLines ls).run = s.run := rfl
@[simp] theorem State.setInLines_mem (ls : List LineDraw) : (s.setInLines ls).mem = s.mem := rfl
@[simp] theorem State.setInLines_out (ls : List LineDraw) : (s.setInLines ls).out = s.out := rfl
@[simp] theorem State.setInLines_inChars (ls : List LineDraw) : (s.setInLines ls).inChars = s.inChars := rfl
@[simp] theorem State.setInLines_inLines (ls : List LineDraw) : (s.setInLines ls).inLines = ls := rfl
@[simp] theorem State.setInLines_draws (ls : List LineDraw) : (s.setInLines ls).draws = s.draws := rfl
@[simp] theorem State.setInLines_getWord (ls : List LineDraw) (q : WordReg) : (s.setInLines ls).getWord q = s.getWord q := by
  cases q <;> rfl
@[simp] theorem State.setInLines_getFloat (ls : List LineDraw) (q : FloatReg) : (s.setInLines ls).getFloat q = s.getFloat q := by
  cases q <;> rfl

/-! ### nextDraw -/

@[simp] theorem State.nextDraw_r0 : (s.nextDraw).r0 = s.r0 := rfl
@[simp] theorem State.nextDraw_r1 : (s.nextDraw).r1 = s.r1 := rfl
@[simp] theorem State.nextDraw_r2 : (s.nextDraw).r2 = s.r2 := rfl
@[simp] theorem State.nextDraw_r3 : (s.nextDraw).r3 = s.r3 := rfl
@[simp] theorem State.nextDraw_r4 : (s.nextDraw).r4 = s.r4 := rfl
@[simp] theorem State.nextDraw_r5 : (s.nextDraw).r5 = s.r5 := rfl
@[simp] theorem State.nextDraw_r6 : (s.nextDraw).r6 = s.r6 := rfl
@[simp] theorem State.nextDraw_r7 : (s.nextDraw).r7 = s.r7 := rfl
@[simp] theorem State.nextDraw_pc : (s.nextDraw).pc = s.pc := rfl
@[simp] theorem State.nextDraw_sp : (s.nextDraw).sp = s.sp := rfl
@[simp] theorem State.nextDraw_bp : (s.nextDraw).bp = s.bp := rfl
@[simp] theorem State.nextDraw_ir : (s.nextDraw).ir = s.ir := rfl
@[simp] theorem State.nextDraw_flagZ : (s.nextDraw).flagZ = s.flagZ := rfl
@[simp] theorem State.nextDraw_flagS : (s.nextDraw).flagS = s.flagS := rfl
@[simp] theorem State.nextDraw_flagO : (s.nextDraw).flagO = s.flagO := rfl
@[simp] theorem State.nextDraw_flagR : (s.nextDraw).flagR = s.flagR := rfl
@[simp] theorem State.nextDraw_pushRet : (s.nextDraw).pushRet = s.pushRet := rfl
@[simp] theorem State.nextDraw_run : (s.nextDraw).run = s.run := rfl
@[simp] theorem State.nextDraw_mem : (s.nextDraw).mem = s.mem := rfl
@[simp] theorem State.nextDraw_out : (s.nextDraw).out = s.out := rfl
@[simp] theorem State.nextDraw_inChars : (s.nextDraw).inChars = s.inChars := rfl
@[simp] theorem State.nextDraw_inLines : (s.nextDraw).inLines = s.inLines := rfl
@[simp] theorem State.nextDraw_draws : (s.nextDraw).draws = s.draws + 1 := rfl
@[simp] theorem State.nextDraw_getWord (q : WordReg) : (s.nextDraw).getWord q = s.getWord q := by
  cases q <;> rfl
@[simp] theorem State.nextDraw_getFloat (q : FloatReg) : (s.nextDraw).getFloat q = s.getFloat q := by
  cases q <;> rfl

/-! ### setWord -/

@[simp] theorem State.setWord_r6 (r : WordReg) (v : Word) : (s.setWord r v).r6 = s.r6 := by cases r <;> rfl
@[simp] theorem State.setWord_r7 (r : WordReg) (v : Word) : (s.setWord r v).r7 = s.r7 := by cases r <;> rfl
@[simp] theorem State.setWord_pc (r : WordReg) (v : Word) : (s.setWord r v).pc = s.pc := by cases r <;> rfl
@[simp] theorem State.setWord_sp (r : WordReg) (v : Word) : (s.setWord r v).sp = s.sp := by cases r <;> rfl
@[simp] theorem State.setWord_bp (r : WordReg) (v : Word) : (s.setWord r v).bp = s.bp := by cases r <;> rfl
@[simp] theorem State.setWord_ir (r : WordReg) (v : Word) : (s.setWord r v).ir = s.ir := by cases r <;> rfl
@[simp] theorem State.setWord_flagZ (r : WordReg) (v : Word) : (s.setWord r v).flagZ = s.flagZ := by cases r <;> rfl
@[simp] theorem State.setWord_flagS (r : WordReg) (v : Word) : (s.setWord r v).flagS = s.flagS := by cases r <;> rfl
@[simp] theorem State.setWord_flagO (r : WordReg) (v : Word) : (s.setWord r v).flagO = s.flagO := by cases r <;> rfl
@[simp] theorem State.setWord_flagR (r : WordReg) (v : Word) : (s.setWord r v).flagR = s.flagR := by cases r <;> rfl
@[simp] theorem State.setWord_pushRet (r : WordReg) (v : Word) : (s.setWord r v).pushRet = s.pushRet := by cases r <;> rfl
@[simp] theorem State.setWord_run (r : WordReg) (v : Word) : (s.setWord r v).run = s.run := by cases r <;> rfl
@[simp] theorem State.setWord_mem (r : WordReg) (v : Word) : (s.setWord r v).mem = s.mem := by cases r <;> rfl
@[simp] theorem State.setWord_out (r : WordReg) (v : Word) : (s.setWord r v).out = s.out := by cases r <;> rfl
@[simp] theorem State.setWord_inChars (r : WordReg) (v : Word) : (s.setWord r v).inChars = s.inChars := by cases r <;> rfl
@[simp] theorem State.setWord_inLines (r : WordReg) (v : Word) : (s.setWord r v).inLines = s.inLines := by cases r <;> rfl
@[simp] theorem State.setWord_draws (r : WordReg) (v : Word) : (s.setWord r v).draws = s.draws := by cases r <;> rfl
@[simp] theorem State.setWord_getWord (r q : WordReg) (v : Word) :
    (s.setWord r v).getWord q = if q = r then v else s.getWord q := by
  cases r <;> cases q <;> rfl
@[simp] theorem State.setWord_getFloat (r : WordReg) (q : FloatReg) (v : Word) :
    (s.setWord r v).getFloat q = s.getFloat q := by
  cases r <;> cases q <;> rfl

/-! ### setFloat -/

@[simp] theorem State.setFloat_r0 (r : FloatReg) (v : FloatWord) : (s.setFloat r v).r0 = s.r0 := by cases r <;> rfl
@[simp] theorem State.setFloat_r1 (r : FloatReg) (v : FloatWord) : (s.setFloat r v).r1 = s.r1 := by cases r <;> rfl
@[simp] theorem State.setFloat_r2 (r : FloatReg) (v : FloatWord) : (s.setFloat r v).r2 = s.r2 := by cases r <;> rfl
@[simp] theorem State.setFloat_r3 (r : FloatReg) (v : FloatWord) : (s.setFloat r v).r3 = s.r3 := by cases r <;> rfl
@[simp] theorem State.setFloat_r4 (r : FloatReg) (v : FloatWord) : (s.setFloat r v).r4 = s.r4 := by cases r <;> rfl
@[simp] theorem State.setFloat_r5 (r : FloatReg) (v : FloatWord) : (s.setFloat r v).r5 = s.r5 := by cases r <;> rfl
@[simp] theorem State.setFloat_pc (r : FloatReg) (v : FloatWord) : (s.setFloat r v).pc = s.pc := by cases r <;> rfl
@[simp] theorem State.setFloat_sp (r : FloatReg) (v : FloatWord) : (s.setFloat r v).sp = s.sp := by cases r <;> rfl
@[simp] theorem State.setFloat_bp (r : FloatReg) (v : FloatWord) : (s.setFloat r v).bp = s.bp := by cases r <;> rfl
@[simp] theorem State.setFloat_ir (r : FloatReg) (v : FloatWord) : (s.setFloat r v).ir = s.ir := by cases r <;> rfl
@[simp] theorem State.setFloat_flagZ (r : FloatReg) (v : FloatWord) : (s.setFloat r v).flagZ = s.flagZ := by cases r <;> rfl
@[simp] theorem State.setFloat_flagS (r : FloatReg) (v : FloatWord) : (s.setFloat r v).flagS = s.flagS := by cases r <;> rfl
@[simp] theorem State.setFloat_flagO (r : FloatReg) (v : FloatWord) : (s.setFloat r v).flagO = s.flagO := by cases r <;> rfl
@[simp] theorem State.setFloat_flagR (r : FloatReg) (v : FloatWord) : (s.setFloat r v).flagR = s.flagR := by cases r <;> rfl
@[simp] theorem State.setFloat_pushRet (r : FloatReg) (v : FloatWord) : (s.setFloat r v).pushRet = s.pushRet := by cases r <;> rfl
@[simp] theorem State.setFloat_run (r : FloatReg) (v : FloatWord) : (s.setFloat r v).run = s.run := by cases r <;> rfl
@[simp] theorem State.setFloat_mem (r : FloatReg) (v : FloatWord) : (s.setFloat r v).mem = s.mem := by cases r <;> rfl
@[simp] theorem State.setFloat_out (r : FloatReg) (v : FloatWord) : (s.setFloat r v).out = s.out := by cases r <;> rfl
@[simp] theorem State.setFloat_inChars (r : FloatReg) (v : FloatWord) : (s.setFloat r v).inChars = s.inChars := by cases r <;> rfl
@[simp] theorem State.setFloat_inLines (r : FloatReg) (v : FloatWord) : (s.setFloat r v).inLines = s.inLines := by cases r <;> rfl
@[simp] theorem State.setFloat_draws (r : FloatReg) (v : FloatWord) : (s.setFloat r v).draws = s.draws := by cases r <;> rfl
@[simp] theorem State.setFloat_getFloat (r q : FloatReg) (v : FloatWord) :
    (s.setFloat r v).getFloat q = if q = r then v else s.getFloat q := by
  cases r <;> cases q <;> rfl
@[simp] theorem State.setFloat_getWord (r : FloatReg) (q : WordReg) (v : FloatWord) :
    (s.setFloat r v).getWord q = s.getWord q := by
  cases r <;> cases q <;> rfl

/-- Two states that agree on every register, read through the accessors, and on every other field are one state. -/
theorem State.ext_views {s t : State} (hw : ∀ q, t.getWord q = s.getWord q)
    (hf : ∀ q, t.getFloat q = s.getFloat q) (hpc : t.pc = s.pc) (hsp : t.sp = s.sp) (hbp : t.bp = s.bp)
    (hir : t.ir = s.ir) (hz : t.flagZ = s.flagZ) (hs : t.flagS = s.flagS) (ho : t.flagO = s.flagO)
    (hr : t.flagR = s.flagR) (hp : t.pushRet = s.pushRet) (hrun : t.run = s.run) (hm : t.mem = s.mem)
    (hout : t.out = s.out) (hc : t.inChars = s.inChars) (hl : t.inLines = s.inLines) (hd : t.draws = s.draws) :
    t = s := by
  have h0 := hw .r0
  have h1 := hw .r1
  have h2 := hw .r2
  have h3 := hw .r3
  have h4 := hw .r4
  have h5 := hw .r5
  have h6 := hf .r6
  have h7 := hf .r7
  cases s
  cases t
  simp_all [State.getWord, State.getFloat]

end Sys2Proof.Machine
end

