-- ==== Sys2Proof/Laws/Ops.lean ====
section
/-!
SUPPORT. For each shared operation, once, everything it can do: the proofs cite these and do not unfold the operations.
-/

namespace Sys2Proof.Machine

/-! ### Addresses -/

theorem oob_eq_false {x : Int} : oob x = false ↔ 0 ≤ x ∧ x ≤ 0xFFFF := by
  simp [oob]

theorem oob_eq_true {x : Int} : oob x = true ↔ x < 0 ∨ 0xFFFF < x := by
  simp [oob]

/-- An address field is never out of bounds (R56). -/
theorem oob_field {n : Nat} (h : n ≤ 16) (a : BitVec n) : oob (a.toNat : Int) = false := by
  have h1 := a.isLt
  have h2 : 2 ^ n ≤ 2 ^ 16 := Nat.pow_le_pow_right (by omega) h
  rw [oob_eq_false]
  omega

/-- With ADDR_SIGNED, a word is out of bounds as an address exactly when its bit 15 is set (R36). -/
@[simp] theorem oob_toaddr (w : Word) : oob (toaddr w) = w.msb := by
  have h := w.isLt
  have hm : w.msb = decide (2 ^ 15 ≤ w.toNat) := by simp [BitVec.msb_eq_decide]
  rw [hm]
  simp only [oob, toaddr, addrSigned, if_true, BitVec.toInt_eq_toNat_cond]
  by_cases h2 : 2 ^ 15 ≤ w.toNat
  · rw [if_neg (by omega), decide_eq_true h2]
    simp
    omega
  · rw [if_pos (by omega), decide_eq_false h2]
    simp
    omega

/-- A word that is in bounds as an address denotes its unsigned value (R36). -/
theorem toaddr_eq_toNat {w : Word} (h : w.msb = false) : toaddr w = (w.toNat : Int) := by
  have hw := w.isLt
  rw [BitVec.msb_eq_decide, decide_eq_false_iff_not] at h
  simp only [toaddr, addrSigned, if_true, BitVec.toInt_eq_toNat_cond]
  rw [if_pos (by omega)]

@[simp] theorem wrap16_toNat (w : Word) : wrap16 (w.toNat : Int) = w := by
  simp [wrap16]

@[simp] theorem wrap16_toInt (w : Word) : wrap16 w.toInt = w := by
  simp [wrap16]

theorem wrap16_toaddr (w : Word) : wrap16 (toaddr w) = w := by
  simp [toaddr, addrSigned]

/-! ### Errors -/

@[simp] theorem complete_ok (s t : State) : complete s (.ok t) = .next t := rfl

@[simp] theorem complete_error (s : State) (e : MachineError) : complete s (.error e) = .next (raise e s) := rfl

/-- The two ends of an instruction: the state it leaves, or the error it raised, taken in the state it began in. -/
theorem complete_next {s t : State} {r : Except MachineError State} (h : complete s r = .next t) :
    r = .ok t ∨ ∃ e, r = .error e ∧ t = raise e s := by
  cases r with
  | ok u =>
    simp only [complete_ok, Host.Outcome.next.injEq] at h
    exact .inl (by rw [h])
  | error e =>
    simp only [complete_error, Host.Outcome.next.injEq] at h
    exact .inr ⟨e, rfl, h.symm⟩

@[simp] theorem raise_getWord (e : MachineError) (s : State) (q : WordReg) : (raise e s).getWord q = s.getWord q := by
  simp [raise]
@[simp] theorem raise_getFloat (e : MachineError) (s : State) (q : FloatReg) : (raise e s).getFloat q = s.getFloat q := by
  simp [raise]
@[simp] theorem raise_pc (e : MachineError) (s : State) : (raise e s).pc = s.pc := rfl
@[simp] theorem raise_sp (e : MachineError) (s : State) : (raise e s).sp = s.sp := rfl
@[simp] theorem raise_bp (e : MachineError) (s : State) : (raise e s).bp = s.bp := rfl
@[simp] theorem raise_ir (e : MachineError) (s : State) : (raise e s).ir = s.ir := rfl
@[simp] theorem raise_flagZ (e : MachineError) (s : State) : (raise e s).flagZ = s.flagZ := rfl
@[simp] theorem raise_flagS (e : MachineError) (s : State) : (raise e s).flagS = s.flagS := rfl
@[simp] theorem raise_flagO (e : MachineError) (s : State) : (raise e s).flagO = s.flagO := rfl
@[simp] theorem raise_flagR (e : MachineError) (s : State) : (raise e s).flagR = s.flagR := rfl
@[simp] theorem raise_pushRet (e : MachineError) (s : State) : (raise e s).pushRet = s.pushRet := rfl
@[simp] theorem raise_run (e : MachineError) (s : State) : (raise e s).run = .crashed e := rfl
@[simp] theorem raise_mem (e : MachineError) (s : State) : (raise e s).mem = s.mem := rfl
@[simp] theorem raise_out (e : MachineError) (s : State) : (raise e s).out = s.out := rfl
@[simp] theorem raise_inChars (e : MachineError) (s : State) : (raise e s).inChars = s.inChars := rfl
@[simp] theorem raise_inLines (e : MachineError) (s : State) : (raise e s).inLines = s.inLines := rfl
@[simp] theorem raise_draws (e : MachineError) (s : State) : (raise e s).draws = s.draws := rfl

/-! ### Accesses -/

theorem memRead_ok {s : State} {a : Int} {w : Word} :
    memRead s a = .ok w ↔ oob a = false ∧ s.mem.read a.toNat = some w := by
  unfold memRead
  cases ho : oob a <;> cases hr : s.mem.read a.toNat <;> simp

/-- A read that fails raises Segfault and nothing else. -/
theorem memRead_error {s : State} {a : Int} {e : MachineError} :
    memRead s a = .error e ↔ e = .segfault ∧ (oob a = true ∨ s.mem.read a.toNat = none) := by
  unfold memRead
  cases ho : oob a <;> cases hr : s.mem.read a.toNat <;> simp [eq_comm]

theorem memWrite_ok {s t : State} {a : Int} {v : Word} :
    memWrite s a v = .ok t ↔ oob a = false ∧ t = s.setMem (s.mem.write a.toNat v) := by
  unfold memWrite
  cases ho : oob a <;> simp [eq_comm]

theorem setpc_ok {s t : State} {x : Int} : setpc s x = .ok t ↔ oob x = false ∧ t = s.setPc (wrap16 x) := by
  unfold setpc
  cases ho : oob x <;> simp [eq_comm]

theorem setsp_ok {s t : State} {x : Int} : setsp s x = .ok t ↔ oob x = false ∧ t = s.setSp (wrap16 x) := by
  unfold setsp
  cases ho : oob x <;> simp [eq_comm]

theorem setbp_ok {s t : State} {x : Int} : setbp s x = .ok t ↔ oob x = false ∧ t = s.setBp (wrap16 x) := by
  unfold setbp
  cases ho : oob x <;> simp [eq_comm]

/-- `memWrite`, `setpc`, `setsp` and `setbp` raise Segfault out of bounds and nothing else. -/
theorem checked_error {s : State} {x : Int} {v : Word} {e : MachineError} :
    (memWrite s x v = .error e ↔ e = .segfault ∧ oob x = true) ∧
    (setpc s x = .error e ↔ e = .segfault ∧ oob x = true) ∧
    (setsp s x = .error e ↔ e = .segfault ∧ oob x = true) ∧
    (setbp s x = .error e ↔ e = .segfault ∧ oob x = true) := by
  unfold memWrite setpc setsp setbp
  cases ho : oob x <;> simp [eq_comm]

/-! ### A general register written -/

@[simp] theorem writeGpr_pc (s : State) (g : Gpr) (v : Word) : (writeGpr s g v).pc = s.pc := by
  cases g <;> simp [writeGpr]
@[simp] theorem writeGpr_sp (s : State) (g : Gpr) (v : Word) : (writeGpr s g v).sp = s.sp := by
  cases g <;> simp [writeGpr]
@[simp] theorem writeGpr_bp (s : State) (g : Gpr) (v : Word) : (writeGpr s g v).bp = s.bp := by
  cases g <;> simp [writeGpr]
@[simp] theorem writeGpr_ir (s : State) (g : Gpr) (v : Word) : (writeGpr s g v).ir = s.ir := by
  cases g <;> simp [writeGpr]
@[simp] theorem writeGpr_flagZ (s : State) (g : Gpr) (v : Word) : (writeGpr s g v).flagZ = s.flagZ := by
  cases g <;> simp [writeGpr]
@[simp] theorem writeGpr_flagS (s : State) (g : Gpr) (v : Word) : (writeGpr s g v).flagS = s.flagS := by
  cases g <;> simp [writeGpr]
@[simp] theorem writeGpr_flagO (s : State) (g : Gpr) (v : Word) : (writeGpr s g v).flagO = s.flagO := by
  cases g <;> simp [writeGpr]
@[simp] theorem writeGpr_flagR (s : State) (g : Gpr) (v : Word) : (writeGpr s g v).flagR = s.flagR := by
  cases g <;> simp [writeGpr]
@[simp] theorem writeGpr_pushRet (s : State) (g : Gpr) (v : Word) : (writeGpr s g v).pushRet = s.pushRet := by
  cases g <;> simp [writeGpr]
@[simp] theorem writeGpr_run (s : State) (g : Gpr) (v : Word) : (writeGpr s g v).run = s.run := by
  cases g <;> simp [writeGpr]
@[simp] theorem writeGpr_mem (s : State) (g : Gpr) (v : Word) : (writeGpr s g v).mem = s.mem := by
  cases g <;> simp [writeGpr]
@[simp] theorem writeGpr_out (s : State) (g : Gpr) (v : Word) : (writeGpr s g v).out = s.out := by
  cases g <;> simp [writeGpr]
@[simp] theorem writeGpr_inChars (s : State) (g : Gpr) (v : Word) : (writeGpr s g v).inChars = s.inChars := by
  cases g <;> simp [writeGpr]
@[simp] theorem writeGpr_inLines (s : State) (g : Gpr) (v : Word) : (writeGpr s g v).inLines = s.inLines := by
  cases g <;> simp [writeGpr]
@[simp] theorem writeGpr_draws (s : State) (g : Gpr) (v : Word) : (writeGpr s g v).draws = s.draws := by
  cases g <;> simp [writeGpr]

@[simp] theorem writeGpr_getWord (s : State) (g : Gpr) (v : Word) (q : WordReg) :
    (writeGpr s g v).getWord q = if Gpr.word q = g then v else s.getWord q := by
  cases g <;> simp [writeGpr]

@[simp] theorem writeGpr_getFloat (s : State) (g : Gpr) (v : Word) (q : FloatReg) :
    (writeGpr s g v).getFloat q = if Gpr.float q = g then i2f v else s.getFloat q := by
  cases g <;> simp [writeGpr]

/-- Everything a register write can do: the register, or pc or sp when the word is in bounds as an address. -/
theorem writeReg_ok {s t : State} {r : Reg} {v : Word} (h : writeReg s r v = .ok t) :
    (∃ g, r = .gpr g ∧ t = writeGpr s g v) ∨
    (r = .pc ∧ v.msb = false ∧ t = s.setPc v) ∨
    (r = .sp ∧ v.msb = false ∧ t = s.setSp v) := by
  cases r with
  | gpr g => exact .inl ⟨g, rfl, by simpa [writeReg, eq_comm] using h⟩
  | pc =>
    obtain ⟨h1, h2⟩ := setpc_ok.1 h
    exact .inr (.inl ⟨rfl, by simpa using h1, by rw [h2, wrap16_toaddr]⟩)
  | sp =>
    obtain ⟨h1, h2⟩ := setsp_ok.1 h
    exact .inr (.inr ⟨rfl, by simpa using h1, by rw [h2, wrap16_toaddr]⟩)

/-! ### The call stack -/

/-- Everything a push can do: sp moves to `p`, the word evaluated there is written to cell `p`. -/
theorem push_ok {s t : State} {e : State → Word} :
    push s e = .ok t ↔
      ∃ p, pushSp s = .ok p ∧ t = (s.setSp p).setMem (s.mem.write p.toNat (e (s.setSp p))) := by
  unfold push
  cases pushSp s with
  | ok p => simp [Except.map, eq_comm]
  | error x => simp [Except.map]

/-- Where a push leaves sp, and when it overflows. -/
theorem pushSp_cases (s : State) :
    (s.sp > s.bp ∧ s.sp = 0xFFFF#16 ∧ pushSp s = .error .stackOverflow) ∨
    (s.sp > s.bp ∧ s.sp ≠ 0xFFFF#16 ∧ pushSp s = .ok (s.sp + 1)) ∨
    (s.sp < s.bp ∧ s.sp = 0x0000#16 ∧ pushSp s = .error .stackOverflow) ∨
    (s.sp < s.bp ∧ s.sp ≠ 0x0000#16 ∧ pushSp s = .ok (s.sp - 1)) ∨
    (s.sp = s.bp ∧ pushSp s = .ok s.sp) := by
  unfold pushSp
  split
  · split <;> simp_all
  · rename_i h1
    split
    · split <;> simp_all
    · rename_i h2
      refine .inr (.inr (.inr (.inr ⟨?_, rfl⟩)))
      bv_omega

/-- Everything a pop can do: the word at sp goes to the destination, and then the top is dropped. -/
theorem pop_ok {s t : State} {dst : State → Word → Except MachineError State} :
    pop s dst = .ok t ↔ ∃ v u, s.mem.read s.sp.toNat = some v ∧ dst s v = .ok u ∧ t = dropTop u := by
  unfold pop
  split
  · simp_all
  · rename_i v hv
    cases hd : dst s v with
    | ok u => simp [Except.map, hv, hd, eq_comm]
    | error x => simp [Except.map, hv, hd]

@[simp] theorem dropTop_getWord (s : State) (q : WordReg) : (dropTop s).getWord q = s.getWord q := by
  simp [dropTop]
@[simp] theorem dropTop_getFloat (s : State) (q : FloatReg) : (dropTop s).getFloat q = s.getFloat q := by
  simp [dropTop]
@[simp] theorem dropTop_pc (s : State) : (dropTop s).pc = s.pc := rfl
@[simp] theorem dropTop_sp (s : State) : (dropTop s).sp = popSp s := rfl
@[simp] theorem dropTop_bp (s : State) : (dropTop s).bp = s.bp := rfl
@[simp] theorem dropTop_ir (s : State) : (dropTop s).ir = s.ir := rfl
@[simp] theorem dropTop_flagZ (s : State) : (dropTop s).flagZ = s.flagZ := rfl
@[simp] theorem dropTop_flagS (s : State) : (dropTop s).flagS = s.flagS := rfl
@[simp] theorem dropTop_flagO (s : State) : (dropTop s).flagO = s.flagO := rfl
@[simp] theorem dropTop_flagR (s : State) : (dropTop s).flagR = s.flagR := rfl
@[simp] theorem dropTop_pushRet (s : State) : (dropTop s).pushRet = s.pushRet := rfl
@[simp] theorem dropTop_run (s : State) : (dropTop s).run = s.run := rfl
@[simp] theorem dropTop_mem (s : State) : (dropTop s).mem = s.mem.erase s.sp.toNat := rfl
@[simp] theorem dropTop_out (s : State) : (dropTop s).out = s.out := rfl
@[simp] theorem dropTop_inChars (s : State) : (dropTop s).inChars = s.inChars := rfl
@[simp] theorem dropTop_inLines (s : State) : (dropTop s).inLines = s.inLines := rfl
@[simp] theorem dropTop_draws (s : State) : (dropTop s).draws = s.draws := rfl

/-! ### Fetch and operands -/

theorem fetch_ok {s t : State} :
    fetch s = .ok t ↔
      ∃ w, s.mem.read s.pc.toNat = some w ∧ s.pc ≠ 0xFFFF#16 ∧ t = (s.setIr w).setPc (s.pc + 1) := by
  unfold fetch
  cases hr : s.mem.read s.pc.toNat with
  | none => simp [eq_comm]
  | some w => by_cases hp : s.pc = 0xFFFF#16 <;> simp [hp, eq_comm]

/-- A register field is 10 to 15 and raises InvalidRegister, or below 10 and names a register (R57). -/
theorem regOf_cases (n : BitVec 4) :
    (10 ≤ n.toNat ∧ regOf n = .error .invalidRegister) ∨ (n.toNat < 10 ∧ ∃ r, regOf n = .ok r) := by
  have hn := n.isLt
  unfold regOf
  generalize n.toNat = k at hn
  interval_cases k <;> simp

/-- A register field names a register exactly when it is below 10. -/
theorem regOf_ok_iff (n : BitVec 4) : (∃ r, regOf n = .ok r) ↔ n.toNat < 10 := by
  rcases regOf_cases n with ⟨h1, h2⟩ | ⟨h1, r, h2⟩
  · simp [h2]
    omega
  · simp [h2, h1]

/-- A register field of 10 to 15 raises InvalidRegister, and no field raises anything else. -/
theorem regOf_error {n : BitVec 4} {e : MachineError} :
    regOf n = .error e ↔ e = .invalidRegister ∧ 10 ≤ n.toNat := by
  rcases regOf_cases n with ⟨h1, h2⟩ | ⟨h1, r, h2⟩
  · simp [h2, h1, eq_comm]
  · simp [h2]
    omega

/-- Every way a right side can have a value. -/
theorem rhsValue_ok {s : State} {rhs : Rhs} {v : Value} (h : rhsValue s rhs = .ok v) :
    (∃ i, rhs = .imm i ∧ v = .word (sext8 i)) ∨
    (∃ n r, rhs = .reg n ∧ regOf n = .ok r ∧ v = regValue s r) ∨
    (∃ n r w, rhs = .regi n ∧ regOf n = .ok r ∧ memRead s (toaddr (readReg s r)) = .ok w ∧ v = .word w) ∨
    (∃ a p w, rhs = .memi a ∧ memRead s (a.toNat : Int) = .ok p ∧ memRead s (toaddr p) = .ok w ∧ v = .word w) := by
  cases rhs with
  | imm i => exact .inl ⟨i, rfl, by simpa [rhsValue, eq_comm] using h⟩
  | reg n =>
    simp only [rhsValue] at h
    cases hr : regOf n with
    | error e => simp [hr, Except.map] at h
    | ok r => exact .inr (.inl ⟨n, r, rfl, hr, by simpa [hr, Except.map, eq_comm] using h⟩)
  | regi n =>
    simp only [rhsValue] at h
    cases hr : regOf n with
    | error e => simp [hr, Except.bind] at h
    | ok r =>
      cases hm : memRead s (toaddr (readReg s r)) with
      | error e => simp [hr, Except.bind, hm, Except.map] at h
      | ok w =>
        refine .inr (.inr (.inl ⟨n, r, w, rfl, hr, hm, ?_⟩))
        simpa [hr, Except.bind, hm, Except.map, eq_comm] using h
  | memi a =>
    simp only [rhsValue] at h
    cases hp : memRead s (a.toNat : Int) with
    | error e => simp [hp, Except.bind] at h
    | ok p =>
      cases hm : memRead s (toaddr p) with
      | error e => simp [hp, Except.bind, hm, Except.map] at h
      | ok w =>
        refine .inr (.inr (.inr ⟨a, p, w, rfl, hp, hm, ?_⟩))
        simpa [hp, Except.bind, hm, Except.map, eq_comm] using h

/-- Every way a target can name a place. -/
theorem placeOf_ok {t : Target} {p : Place} (h : placeOf t = .ok p) :
    (∃ a, t = .mem a ∧ p = .addr a) ∨ ∃ n r, t = .reg n ∧ regOf n = .ok r ∧ p = .inReg r := by
  cases t with
  | mem a => exact .inl ⟨a, rfl, by simpa [placeOf, eq_comm] using h⟩
  | reg n =>
    simp only [placeOf] at h
    cases hr : regOf n with
    | error e => simp [hr, Except.map] at h
    | ok r => exact .inr ⟨n, r, rfl, hr, by simpa [hr, Except.map, eq_comm] using h⟩

end Sys2Proof.Machine
end

