-- ==== Sys2Proof/Laws/Exec.lean ====
section
/-!
SUPPORT. The dispatch, one equation per constructor, and what a step can do.
-/

namespace Sys2Proof.Machine

/-! ### `exec`, one equation per constructor -/

@[simp] theorem exec_hlt (ignored : BitVec 12) (s : State) :
    exec (.hlt ignored) s = execHlt ignored s := rfl

@[simp] theorem exec_addImm (d : BitVec 3) (i : BitVec 8) (s : State) :
    exec (.addImm d i) s = execAdd d (.imm i) s := rfl

@[simp] theorem exec_addReg (d : BitVec 3) (n : BitVec 4) (s : State) :
    exec (.addReg d n) s = execAdd d (.reg n) s := rfl

@[simp] theorem exec_addRegi (d : BitVec 3) (n : BitVec 4) (s : State) :
    exec (.addRegi d n) s = execAdd d (.regi n) s := rfl

@[simp] theorem exec_addMemi (d : BitVec 3) (a : BitVec 7) (s : State) :
    exec (.addMemi d a) s = execAdd d (.memi a) s := rfl

@[simp] theorem exec_divImm (d : BitVec 3) (i : BitVec 8) (s : State) :
    exec (.divImm d i) s = execDiv d (.imm i) s := rfl

@[simp] theorem exec_divReg (d : BitVec 3) (n : BitVec 4) (s : State) :
    exec (.divReg d n) s = execDiv d (.reg n) s := rfl

@[simp] theorem exec_divRegi (d : BitVec 3) (n : BitVec 4) (s : State) :
    exec (.divRegi d n) s = execDiv d (.regi n) s := rfl

@[simp] theorem exec_divMemi (d : BitVec 3) (a : BitVec 7) (s : State) :
    exec (.divMemi d a) s = execDiv d (.memi a) s := rfl

@[simp] theorem exec_cmpImm (d : BitVec 3) (i : BitVec 8) (s : State) :
    exec (.cmpImm d i) s = execCmp d (.imm i) s := rfl

@[simp] theorem exec_cmpReg (d : BitVec 3) (n : BitVec 4) (s : State) :
    exec (.cmpReg d n) s = execCmp d (.reg n) s := rfl

@[simp] theorem exec_cmpRegi (d : BitVec 3) (n : BitVec 4) (s : State) :
    exec (.cmpRegi d n) s = execCmp d (.regi n) s := rfl

@[simp] theorem exec_cmpMemi (d : BitVec 3) (a : BitVec 7) (s : State) :
    exec (.cmpMemi d a) s = execCmp d (.memi a) s := rfl

@[simp] theorem exec_nandImm (d : BitVec 3) (i : BitVec 8) (s : State) :
    exec (.nandImm d i) s = execNand d (.imm i) s := rfl

@[simp] theorem exec_nandReg (d : BitVec 3) (n : BitVec 4) (s : State) :
    exec (.nandReg d n) s = execNand d (.reg n) s := rfl

@[simp] theorem exec_nandRegi (d : BitVec 3) (n : BitVec 4) (s : State) :
    exec (.nandRegi d n) s = execNand d (.regi n) s := rfl

@[simp] theorem exec_nandMemi (d : BitVec 3) (a : BitVec 7) (s : State) :
    exec (.nandMemi d a) s = execNand d (.memi a) s := rfl

@[simp] theorem exec_movImm (d : BitVec 3) (i : BitVec 8) (s : State) :
    exec (.movImm d i) s = execMov d (.imm i) s := rfl

@[simp] theorem exec_movReg (d : BitVec 3) (n : BitVec 4) (s : State) :
    exec (.movReg d n) s = execMov d (.reg n) s := rfl

@[simp] theorem exec_movRegi (d : BitVec 3) (n : BitVec 4) (s : State) :
    exec (.movRegi d n) s = execMov d (.regi n) s := rfl

@[simp] theorem exec_movMemi (d : BitVec 3) (a : BitVec 7) (s : State) :
    exec (.movMemi d a) s = execMov d (.memi a) s := rfl

@[simp] theorem exec_ld (d : BitVec 3) (a : BitVec 9) (s : State) :
    exec (.ld d a) s = execLd d a s := rfl

@[simp] theorem exec_lea (d : BitVec 3) (a : BitVec 9) (s : State) :
    exec (.lea d a) s = execLea d a s := rfl

@[simp] theorem exec_stMem (a : BitVec 8) (r : BitVec 3) (s : State) :
    exec (.stMem a r) s = execStMem a r s := rfl

@[simp] theorem exec_stRegi (n : BitVec 4) (r : BitVec 3) (s : State) :
    exec (.stRegi n r) s = execStRegi n r s := rfl

@[simp] theorem exec_popReg (n : BitVec 4) (s : State) :
    exec (.popReg n) s = execPopReg n s := rfl

@[simp] theorem exec_popMem (a : BitVec 11) (s : State) :
    exec (.popMem a) s = execPopMem a s := rfl

@[simp] theorem exec_pushImm (i : BitVec 8) (s : State) :
    exec (.pushImm i) s = execPushImm i s := rfl

@[simp] theorem exec_pushReg (n : BitVec 4) (s : State) :
    exec (.pushReg n) s = execPushReg n s := rfl

@[simp] theorem exec_int (i : BitVec 8) (s : State) :
    exec (.int i) s = execInt i s := rfl

@[simp] theorem exec_jmpMem (a : BitVec 10) (s : State) :
    exec (.jmpMem a) s = execJmp (.mem a) s := rfl

@[simp] theorem exec_jmpReg (n : BitVec 4) (s : State) :
    exec (.jmpReg n) s = execJmp (.reg n) s := rfl

@[simp] theorem exec_ret (s : State) :
    exec .ret s = execRet s := rfl

@[simp] theorem exec_boMem (a : BitVec 10) (s : State) :
    exec (.boMem a) s = execBcc .bo (.mem a) s := rfl

@[simp] theorem exec_boReg (n : BitVec 4) (s : State) :
    exec (.boReg n) s = execBcc .bo (.reg n) s := rfl

@[simp] theorem exec_bnoMem (a : BitVec 10) (s : State) :
    exec (.bnoMem a) s = execBcc .bno (.mem a) s := rfl

@[simp] theorem exec_bnoReg (n : BitVec 4) (s : State) :
    exec (.bnoReg n) s = execBcc .bno (.reg n) s := rfl

@[simp] theorem exec_blMem (a : BitVec 10) (s : State) :
    exec (.blMem a) s = execBcc .bl (.mem a) s := rfl

@[simp] theorem exec_blReg (n : BitVec 4) (s : State) :
    exec (.blReg n) s = execBcc .bl (.reg n) s := rfl

@[simp] theorem exec_bgMem (a : BitVec 10) (s : State) :
    exec (.bgMem a) s = execBcc .bg (.mem a) s := rfl

@[simp] theorem exec_bgReg (n : BitVec 4) (s : State) :
    exec (.bgReg n) s = execBcc .bg (.reg n) s := rfl

@[simp] theorem exec_bzMem (a : BitVec 10) (s : State) :
    exec (.bzMem a) s = execBcc .bz (.mem a) s := rfl

@[simp] theorem exec_bzReg (n : BitVec 4) (s : State) :
    exec (.bzReg n) s = execBcc .bz (.reg n) s := rfl

@[simp] theorem exec_bnzMem (a : BitVec 10) (s : State) :
    exec (.bnzMem a) s = execBcc .bnz (.mem a) s := rfl

@[simp] theorem exec_bnzReg (n : BitVec 4) (s : State) :
    exec (.bnzReg n) s = execBcc .bnz (.reg n) s := rfl

/-- ADD in any of its four forms. -/
@[simp] theorem exec_add (d : BitVec 3) (rhs : Rhs) (s : State) : exec (Instr.add d rhs) s = execAdd d rhs s := by
  cases rhs <;> rfl

/-- DIV in any of its four forms. -/
@[simp] theorem exec_div (d : BitVec 3) (rhs : Rhs) (s : State) : exec (Instr.div d rhs) s = execDiv d rhs s := by
  cases rhs <;> rfl

/-- CMP in any of its four forms. -/
@[simp] theorem exec_cmp (d : BitVec 3) (rhs : Rhs) (s : State) : exec (Instr.cmp d rhs) s = execCmp d rhs s := by
  cases rhs <;> rfl

/-- NAND in any of its four forms. -/
@[simp] theorem exec_nand (d : BitVec 3) (rhs : Rhs) (s : State) : exec (Instr.nand d rhs) s = execNand d rhs s := by
  cases rhs <;> rfl

/-- MOV in any of its four forms. -/
@[simp] theorem exec_mov (d : BitVec 3) (rhs : Rhs) (s : State) : exec (Instr.mov d rhs) s = execMov d rhs s := by
  cases rhs <;> rfl

/-- JMP in either form. -/
@[simp] theorem exec_jmp (t : Target) (s : State) : exec (Instr.jmp t) s = execJmp t s := by
  cases t <;> rfl

/-- A conditional branch in either form. -/
@[simp] theorem exec_bcc (b : Branch) (t : Target) (s : State) : exec (Instr.bcc b t) s = execBcc b t s := by
  cases b <;> cases t <;> rfl

/-! ### `step` -/

/-- Everything a step can do when it answers a next state: the machine was running, and the fetch crashed it, or the
word fetched is no instruction, or it is one and is executed. -/
theorem step_next {s t : State} (h : step s = .next t) :
    s.run = .running ∧
      (fetch s = .error t ∨
        ∃ u, fetch s = .ok u ∧
          ((∃ e, decode u.ir = .error e ∧ t = raise .illegalInstruction u) ∨
            ∃ i, decode u.ir = .ok i ∧ exec i u = .next t)) := by
  unfold step at h
  cases hr : s.run with
  | halted => simp [hr] at h
  | crashed e => simp [hr] at h
  | running =>
    refine ⟨rfl, ?_⟩
    rw [hr] at h
    cases hf : fetch s with
    | error u =>
      simp only [hf, Host.Outcome.next.injEq] at h
      exact .inl (by rw [h])
    | ok u =>
      refine .inr ⟨u, rfl, ?_⟩
      simp only [hf, execFetched] at h
      cases hd : decode u.ir with
      | error e => exact .inl ⟨e, rfl, by simpa [hd, eq_comm] using h⟩
      | ok i => exact .inr ⟨i, rfl, by simpa [hd] using h⟩

end Sys2Proof.Machine
end

