-- ==== Sys2Proof/Laws/Interrupt.lean ====
section
/-!
SUPPORT. What INT 8 selects: as a memory, the cells of the range, in canonical form.
-/

namespace Sys2Proof.Machine

theorem mem_cellsBetween {m : Memory} {lo hi : Nat} {p : Nat × Word} (h : p ∈ cellsBetween m lo hi) :
    lo ≤ p.1 ∧ p.1 ≤ hi ∧ m.read p.1 = some p.2 := by
  simp only [cellsBetween, List.mem_filterMap, Option.map_eq_some_iff, List.mem_range'_1] at h
  obtain ⟨a, ha, w, hw, rfl⟩ := h
  exact ⟨ha.1, by omega, hw⟩

/-- The cells from `lo` on, `n` of them at most, as a canonical memory that reads as `m` does there. -/
theorem filterMap_range'_read {m : Memory} (hm : m.wf) (lo n : Nat) :
    Memory.wf ((List.range' lo n).filterMap fun a => (m.read a).map fun w => (a, w)) ∧
    ∀ a, Memory.read ((List.range' lo n).filterMap fun a => (m.read a).map fun w => (a, w)) a =
      if lo ≤ a ∧ a < lo + n then m.read a else none := by
  induction n generalizing lo with
  | zero => exact ⟨Memory.wf_nil, fun a => by simp⟩
  | succ n ih =>
    obtain ⟨⟨h1, h2⟩, h3⟩ := ih (lo + 1)
    simp only [List.range'_succ, List.filterMap_cons]
    cases h : m.read lo with
    | none => exact ⟨⟨h1, h2⟩, fun a => by simp only [Option.map_none, h3]; grind⟩
    | some w =>
      refine ⟨⟨List.pairwise_cons.2 ⟨fun p hp => ?_, h1⟩, fun p hp => ?_⟩, fun a => ?_⟩
      · simp only [List.mem_filterMap, Option.map_eq_some_iff, List.mem_range'_1] at hp
        obtain ⟨a, ha, w, hw, rfl⟩ := hp
        simp
        omega
      · rcases List.mem_cons.1 hp with rfl | hp
        · exact Memory.lt_of_read hm h
        · exact h2 _ hp
      · simp only [Option.map_some, Memory.read_cons, h3]
        grind

theorem wf_cellsBetween {m : Memory} (hm : m.wf) (lo hi : Nat) : Memory.wf (cellsBetween m lo hi) :=
  (filterMap_range'_read hm _ _).1

theorem read_cellsBetween {m : Memory} (hm : m.wf) (lo hi a : Nat) :
    Memory.read (cellsBetween m lo hi) a = if lo ≤ a ∧ a ≤ hi then m.read a else none := by
  rw [cellsBetween, (filterMap_range'_read hm _ _).2]
  congr 1
  simp only [eq_iff_iff]
  omega

end Sys2Proof.Machine
end

