-- ==== Sys2Proof/Laws/Loader.lean ====
section
/-!
SUPPORT. What a ROM's bytes and its image are: the words are half as many as the bytes, and the image is canonical.
-/

namespace Sys2Proof.Machine

/-- An odd number of bytes has no words; an even number has half as many. -/
theorem romWords_length : ∀ rom : List Byte,
    (rom.length % 2 = 1 ∧ romWords rom = none) ∨ ∃ ws, romWords rom = some ws ∧ rom.length = 2 * ws.length
  | [] => .inr ⟨[], rfl, rfl⟩
  | [_] => .inl ⟨rfl, rfl⟩
  | a :: b :: rom => by
    rcases romWords_length rom with ⟨h1, h2⟩ | ⟨ws, h1, h2⟩
    · refine .inl ⟨?_, by simp [romWords, h2]⟩
      simp
      omega
    · refine .inr ⟨(a ++ b) :: ws, by simp [romWords, h1], ?_⟩
      simp
      omega

theorem mem_romImage {a : Nat} {ws : List Word} {p : Nat × Word} (h : p ∈ romImage a ws) :
    a ≤ p.1 ∧ p.1 < a + ws.length := by
  induction ws generalizing a with
  | nil => simp [romImage] at h
  | cons w ws ih =>
    rcases List.mem_cons.1 h with rfl | h
    · simp
    · have := ih h
      simp
      omega

theorem wf_romImage {a : Nat} {ws : List Word} (h : a + ws.length ≤ 65536) : Memory.wf (romImage a ws) := by
  refine ⟨?_, fun p hp => by have := mem_romImage hp; omega⟩
  clear h
  induction ws generalizing a with
  | nil => exact List.Pairwise.nil
  | cons w ws ih => exact List.pairwise_cons.2 ⟨fun p hp => (mem_romImage hp).1, ih⟩

theorem read_romImage (a : Nat) (ws : List Word) (b : Nat) :
    Memory.read (romImage a ws) b = if b < a then none else ws[b - a]? := by
  induction ws generalizing a with
  | nil => simp [romImage]
  | cons w ws ih =>
    rw [romImage, Memory.read_cons, ih]
    by_cases h1 : b = a
    · simp [h1]
    · by_cases h2 : b < a
      · simp [h1, h2]
        omega
      · have h3 : b - a = (b - (a + 1)) + 1 := by omega
        simp [h1, h2, h3]
        omega

end Sys2Proof.Machine
end

