-- ==== Sys2Proof/Laws/PerInstr.lean ====
section
/-!
SUPPORT. What holds of every instruction as syntax, one lemma per constructor: the encoder puts the opcode of the
overview table (30_encoding.md R46) in bits 15:12.
-/

namespace Sys2Proof.Laws.EncodedOpcode

/-- The opcode column of R46, bits 15:12. -/
def opcode : Instr → BitVec 4
  | .hlt _ => 0x0#4
  | .addImm _ _ => 0x1#4
  | .addReg _ _ => 0x1#4
  | .addRegi _ _ => 0x1#4
  | .addMemi _ _ => 0x1#4
  | .divImm _ _ => 0x4#4
  | .divReg _ _ => 0x4#4
  | .divRegi _ _ => 0x4#4
  | .divMemi _ _ => 0x4#4
  | .cmpImm _ _ => 0xA#4
  | .cmpReg _ _ => 0xA#4
  | .cmpRegi _ _ => 0xA#4
  | .cmpMemi _ _ => 0xA#4
  | .nandImm _ _ => 0xB#4
  | .nandReg _ _ => 0xB#4
  | .nandRegi _ _ => 0xB#4
  | .nandMemi _ _ => 0xB#4
  | .movImm _ _ => 0xE#4
  | .movReg _ _ => 0xE#4
  | .movRegi _ _ => 0xE#4
  | .movMemi _ _ => 0xE#4
  | .ld _ _ => 0x6#4
  | .lea _ _ => 0xF#4
  | .stMem _ _ => 0x7#4
  | .stRegi _ _ => 0x7#4
  | .popReg _ => 0x3#4
  | .popMem _ => 0x3#4
  | .pushImm _ => 0xC#4
  | .pushReg _ => 0xC#4
  | .int _ => 0xD#4
  | .jmpMem _ => 0x8#4
  | .jmpReg _ => 0x8#4
  | .ret => 0x5#4
  | .boMem _ => 0x2#4
  | .boReg _ => 0x2#4
  | .bnoMem _ => 0x2#4
  | .bnoReg _ => 0x2#4
  | .blMem _ => 0x5#4
  | .blReg _ => 0x5#4
  | .bgMem _ => 0x5#4
  | .bgReg _ => 0x5#4
  | .bzMem _ => 0x9#4
  | .bzReg _ => 0x9#4
  | .bnzMem _ => 0x9#4
  | .bnzReg _ => 0x9#4

/-- The opcode field of an instruction's word is the table's. -/
def Statement (i : Instr) : Prop := field (encode i) 12 4 = opcode i

theorem hlt (ignored : BitVec 12) : Statement (.hlt ignored) := by
  change field (0x0#4 ++ ignored) 12 4 = 0x0#4
  apply field_eq
  intro j hj
  simp only [BitVec.getLsbD_append]
  interval_cases j <;> simp

theorem addImm (d : BitVec 3) (i : BitVec 8) : Statement (.addImm d i) := encodeImm_op 0x1#4 d i

theorem addReg (d : BitVec 3) (n : BitVec 4) : Statement (.addReg d n) := encodeReg_op 0x1#4 d n

theorem addRegi (d : BitVec 3) (n : BitVec 4) : Statement (.addRegi d n) := encodeRegi_op 0x1#4 d n

theorem addMemi (d : BitVec 3) (a : BitVec 7) : Statement (.addMemi d a) := encodeMemi_op 0x1#4 d a

theorem divImm (d : BitVec 3) (i : BitVec 8) : Statement (.divImm d i) := encodeImm_op 0x4#4 d i

theorem divReg (d : BitVec 3) (n : BitVec 4) : Statement (.divReg d n) := encodeReg_op 0x4#4 d n

theorem divRegi (d : BitVec 3) (n : BitVec 4) : Statement (.divRegi d n) := encodeRegi_op 0x4#4 d n

theorem divMemi (d : BitVec 3) (a : BitVec 7) : Statement (.divMemi d a) := encodeMemi_op 0x4#4 d a

theorem cmpImm (d : BitVec 3) (i : BitVec 8) : Statement (.cmpImm d i) := encodeImm_op 0xA#4 d i

theorem cmpReg (d : BitVec 3) (n : BitVec 4) : Statement (.cmpReg d n) := encodeReg_op 0xA#4 d n

theorem cmpRegi (d : BitVec 3) (n : BitVec 4) : Statement (.cmpRegi d n) := encodeRegi_op 0xA#4 d n

theorem cmpMemi (d : BitVec 3) (a : BitVec 7) : Statement (.cmpMemi d a) := encodeMemi_op 0xA#4 d a

theorem nandImm (d : BitVec 3) (i : BitVec 8) : Statement (.nandImm d i) := encodeImm_op 0xB#4 d i

theorem nandReg (d : BitVec 3) (n : BitVec 4) : Statement (.nandReg d n) := encodeReg_op 0xB#4 d n

theorem nandRegi (d : BitVec 3) (n : BitVec 4) : Statement (.nandRegi d n) := encodeRegi_op 0xB#4 d n

theorem nandMemi (d : BitVec 3) (a : BitVec 7) : Statement (.nandMemi d a) := encodeMemi_op 0xB#4 d a

theorem movImm (d : BitVec 3) (i : BitVec 8) : Statement (.movImm d i) := encodeImm_op 0xE#4 d i

theorem movReg (d : BitVec 3) (n : BitVec 4) : Statement (.movReg d n) := encodeReg_op 0xE#4 d n

theorem movRegi (d : BitVec 3) (n : BitVec 4) : Statement (.movRegi d n) := encodeRegi_op 0xE#4 d n

theorem movMemi (d : BitVec 3) (a : BitVec 7) : Statement (.movMemi d a) := encodeMemi_op 0xE#4 d a

theorem ld (d : BitVec 3) (a : BitVec 9) : Statement (.ld d a) := by
  change field (0x6#4 ++ d ++ a) 12 4 = 0x6#4
  apply field_eq
  intro j hj
  simp only [BitVec.getLsbD_append]
  interval_cases j <;> simp

theorem lea (d : BitVec 3) (a : BitVec 9) : Statement (.lea d a) := by
  change field (0xF#4 ++ d ++ a) 12 4 = 0xF#4
  apply field_eq
  intro j hj
  simp only [BitVec.getLsbD_append]
  interval_cases j <;> simp

theorem stMem (a : BitVec 8) (r : BitVec 3) : Statement (.stMem a r) := by
  change field (0x7#4 ++ 0#1 ++ a ++ r) 12 4 = 0x7#4
  apply field_eq
  intro j hj
  simp only [BitVec.getLsbD_append]
  interval_cases j <;> simp

theorem stRegi (n : BitVec 4) (r : BitVec 3) : Statement (.stRegi n r) := by
  change field (0x7#4 ++ 1#1 ++ n ++ 0#4 ++ r) 12 4 = 0x7#4
  apply field_eq
  intro j hj
  simp only [BitVec.getLsbD_append]
  interval_cases j <;> simp

theorem popReg (n : BitVec 4) : Statement (.popReg n) := by
  change field (0x3#4 ++ 0#8 ++ n) 12 4 = 0x3#4
  apply field_eq
  intro j hj
  simp only [BitVec.getLsbD_append]
  interval_cases j <;> simp

theorem popMem (a : BitVec 11) : Statement (.popMem a) := by
  change field (0x3#4 ++ 1#1 ++ a) 12 4 = 0x3#4
  apply field_eq
  intro j hj
  simp only [BitVec.getLsbD_append]
  interval_cases j <;> simp

theorem pushImm (i : BitVec 8) : Statement (.pushImm i) := by
  change field (0xC#4 ++ 0#3 ++ 1#1 ++ i) 12 4 = 0xC#4
  apply field_eq
  intro j hj
  simp only [BitVec.getLsbD_append]
  interval_cases j <;> simp

theorem pushReg (n : BitVec 4) : Statement (.pushReg n) := by
  change field (0xC#4 ++ 0#3 ++ 0#5 ++ n) 12 4 = 0xC#4
  apply field_eq
  intro j hj
  simp only [BitVec.getLsbD_append]
  interval_cases j <;> simp

theorem int (i : BitVec 8) : Statement (.int i) := by
  change field (0xD#4 ++ 0#3 ++ 1#1 ++ i) 12 4 = 0xD#4
  apply field_eq
  intro j hj
  simp only [BitVec.getLsbD_append]
  interval_cases j <;> simp

theorem jmpMem (a : BitVec 10) : Statement (.jmpMem a) := encodeJumpMem_op 0x8#4 0#1 a

theorem jmpReg (n : BitVec 4) : Statement (.jmpReg n) := encodeJumpReg_op 0x8#4 0#1 n

theorem ret : Statement .ret := rfl

theorem boMem (a : BitVec 10) : Statement (.boMem a) := encodeJumpMem_op 0x2#4 0#1 a

theorem boReg (n : BitVec 4) : Statement (.boReg n) := encodeJumpReg_op 0x2#4 0#1 n

theorem bnoMem (a : BitVec 10) : Statement (.bnoMem a) := encodeJumpMem_op 0x2#4 1#1 a

theorem bnoReg (n : BitVec 4) : Statement (.bnoReg n) := encodeJumpReg_op 0x2#4 1#1 n

theorem blMem (a : BitVec 10) : Statement (.blMem a) := encodeJumpMem_op 0x5#4 0#1 a

theorem blReg (n : BitVec 4) : Statement (.blReg n) := encodeJumpReg_op 0x5#4 0#1 n

theorem bgMem (a : BitVec 10) : Statement (.bgMem a) := encodeJumpMem_op 0x5#4 1#1 a

theorem bgReg (n : BitVec 4) : Statement (.bgReg n) := encodeJumpReg_op 0x5#4 1#1 n

theorem bzMem (a : BitVec 10) : Statement (.bzMem a) := encodeJumpMem_op 0x9#4 0#1 a

theorem bzReg (n : BitVec 4) : Statement (.bzReg n) := encodeJumpReg_op 0x9#4 0#1 n

theorem bnzMem (a : BitVec 10) : Statement (.bnzMem a) := encodeJumpMem_op 0x9#4 1#1 a

theorem bnzReg (n : BitVec 4) : Statement (.bnzReg n) := encodeJumpReg_op 0x9#4 1#1 n

end Sys2Proof.Laws.EncodedOpcode
end

