-- ==== Sys2Proof/Laws/Stack.lean ====
section
/-!
SUPPORT. The operations in the wording of Safety.lean: where a push and a pop move sp, and when a branch is taken.
-/

namespace Sys2Proof.Machine

theorem pushSp_of_pushesTo {s : State} {p : Word} (h : s.pushesTo p) : pushSp s = .ok p := by
  have := s.sp.isLt
  have := s.bp.isLt
  have := p.isLt
  unfold pushSp
  rcases h with ⟨h1, h2⟩ | ⟨h1, h2⟩ | ⟨h1, rfl⟩
  · rw [if_pos (by bv_omega), if_neg (by bv_omega)]
    congr
    bv_omega
  · rw [if_neg (by bv_omega), if_pos (by bv_omega), if_neg (by bv_omega)]
    congr
    bv_omega
  · rw [if_neg (by bv_omega), if_neg (by bv_omega)]

theorem pushSp_of_pushOverflows {s : State} (h : s.pushOverflows) : pushSp s = .error .stackOverflow := by
  have := s.sp.isLt
  have := s.bp.isLt
  unfold pushSp
  rcases h with ⟨h1, h2⟩ | ⟨h1, h2⟩
  · rw [if_pos (by bv_omega), if_pos (by bv_omega)]
  · rw [if_neg (by bv_omega), if_pos (by bv_omega), if_pos (by bv_omega)]

/-- A push moves sp somewhere or overflows. -/
theorem pushesTo_or_pushOverflows (s : State) : (∃ p, s.pushesTo p) ∨ s.pushOverflows := by
  rcases pushSp_cases s with ⟨h1, h2, -⟩ | ⟨h1, h2, -⟩ | ⟨h1, h2, -⟩ | ⟨h1, h2, -⟩ | ⟨h1, -⟩
  · exact .inr (.inl ⟨by bv_omega, by bv_omega⟩)
  · exact .inl ⟨s.sp + 1, .inl ⟨by bv_omega, by bv_omega⟩⟩
  · exact .inr (.inr ⟨by bv_omega, by bv_omega⟩)
  · exact .inl ⟨s.sp - 1, .inr (.inl ⟨by bv_omega, by bv_omega⟩)⟩
  · exact .inl ⟨s.sp, .inr (.inr ⟨h1, rfl⟩)⟩

theorem popSp_of_popsTo {s : State} {p : Word} (h : popsTo s.bp s.sp p) : popSp s = p := by
  have := s.sp.isLt
  have := s.bp.isLt
  have := p.isLt
  unfold popSp
  rcases h with ⟨h1, h2⟩ | ⟨h1, h2⟩ | ⟨h1, rfl⟩
  · rw [if_pos (by bv_omega)]
    bv_omega
  · rw [if_neg (by bv_omega), if_pos (by bv_omega)]
    bv_omega
  · rw [if_neg (by bv_omega), if_neg (by bv_omega)]

theorem taken_iff_condition {s : State} {b : Branch} : taken s b ↔ condition s b = true := by
  cases b <;> simp [taken, condition]

end Sys2Proof.Machine
end

