-- ==== Sys2Proof/Tests/Slice0.lean ====
section
/-!
SUPPORT. Tests: the well-formedness smoke test, the decoding of every constructor from a word written out from the
format tables, steps whose results are rows of 95_test_vectors.md section 3 (V numbers), and, for every statement with
hypotheses, a theorem `witness_<statement>` that meets them together.
-/

namespace Sys2Proof.Tests

open Sys2Proof.Machine

/-! ### Well-formedness -/

/-- The one ill-formed instruction: BL to address 0, whose word is RET (R54). -/
theorem test_wellFormed_refuses_bl_to_zero :
    (Instr.blMem 0#10).wellFormed = false ∧ (Instr.blMem 1#10).wellFormed = true ∧
    decode (encode (.blMem 0#10)) = .ok .ret := by decide

/-! ### Decoding: one word per constructor, its bits written out from R47 to R54 (95_test_vectors.md section 2) -/

theorem test_decode_hlt :
    decodeTableWord 16 0b0000101010111100 = some (.hlt 0xABC#12) := by decide

theorem test_decode_add :
    decodeTableWord 16 0b0001101100000011 = some (.addImm 5#3 3#8) ∧
    decodeTableWord 16 0b0001001000001111 = some (.addReg 1#3 15#4) ∧
    decodeTableWord 16 0b0001010001000001 = some (.addRegi 2#3 1#4) ∧
    decodeTableWord 16 0b0001010010110000 = some (.addMemi 2#3 0x30#7) := by decide

theorem test_decode_div :
    decodeTableWord 16 0b0100000111111110 = some (.divImm 0#3 0xFE#8) ∧
    decodeTableWord 16 0b0100011000001001 = some (.divReg 3#3 9#4) ∧
    decodeTableWord 16 0b0100000001000001 = some (.divRegi 0#3 1#4) ∧
    decodeTableWord 16 0b0100110011111111 = some (.divMemi 6#3 0x7F#7) := by decide

theorem test_decode_cmp :
    decodeTableWord 16 0b1010001100100001 = some (.cmpImm 1#3 33#8) ∧
    decodeTableWord 16 0b1010000000000001 = some (.cmpReg 0#3 1#4) ∧
    decodeTableWord 16 0b1010000001000001 = some (.cmpRegi 0#3 1#4) ∧
    decodeTableWord 16 0b1010111010000001 = some (.cmpMemi 7#3 1#7) := by decide

theorem test_decode_nand :
    decodeTableWord 16 0b1011000110000000 = some (.nandImm 0#3 0x80#8) ∧
    decodeTableWord 16 0b1011011000001000 = some (.nandReg 3#3 8#4) ∧
    decodeTableWord 16 0b1011101001000010 = some (.nandRegi 5#3 2#4) ∧
    decodeTableWord 16 0b1011000010100000 = some (.nandMemi 0#3 0x20#7) := by decide

theorem test_decode_mov :
    decodeTableWord 16 0b1110001100101010 = some (.movImm 1#3 42#8) ∧
    decodeTableWord 16 0b1110011000000100 = some (.movReg 3#3 4#4) ∧
    decodeTableWord 16 0b1110010001001000 = some (.movRegi 2#3 8#4) ∧
    decodeTableWord 16 0b1110010010110000 = some (.movMemi 2#3 0x30#7) := by decide

theorem test_decode_load_store :
    decodeTableWord 16 0b0110100001000000 = some (.ld 4#3 0x40#9) ∧
    decodeTableWord 16 0b1111100011111111 = some (.lea 4#3 0xFF#9) ∧
    decodeTableWord 16 0b0111001000101010 = some (.stMem 0x45#8 2#3) ∧
    decodeTableWord 16 0b0111110010000011 = some (.stRegi 9#4 3#3) := by decide

theorem test_decode_stack :
    decodeTableWord 16 0b0011000000000100 = some (.popReg 4#4) ∧
    decodeTableWord 16 0b0011111111111111 = some (.popMem 0x7FF#11) ∧
    decodeTableWord 16 0b1100000111111111 = some (.pushImm 0xFF#8) ∧
    decodeTableWord 16 0b1100000000001001 = some (.pushReg 9#4) ∧
    decodeTableWord 16 0b0101000000000000 = some .ret := by decide

theorem test_decode_int_jmp :
    decodeTableWord 16 0b1101000100000111 = some (.int 7#8) ∧
    decodeTableWord 16 0b1000000001101010 = some (.jmpMem 0x6A#10) ∧
    decodeTableWord 16 0b1000010000000010 = some (.jmpReg 2#4) := by decide

theorem test_decode_bcc_mem :
    decodeTableWord 16 0b0010000001110000 = some (.boMem 0x70#10) ∧
    decodeTableWord 16 0b0010100001110000 = some (.bnoMem 0x70#10) ∧
    decodeTableWord 16 0b0101000000000011 = some (.blMem 3#10) ∧
    decodeTableWord 16 0b0101100000000000 = some (.bgMem 0#10) ∧
    decodeTableWord 16 0b1001001111111111 = some (.bzMem 0x3FF#10) ∧
    decodeTableWord 16 0b1001100001110000 = some (.bnzMem 0x70#10) := by decide

theorem test_decode_bcc_reg :
    decodeTableWord 16 0b0010010000001010 = some (.boReg 10#4) ∧
    decodeTableWord 16 0b0010110000000000 = some (.bnoReg 0#4) ∧
    decodeTableWord 16 0b0101010000000000 = some (.blReg 0#4) ∧
    decodeTableWord 16 0b0101110000001001 = some (.bgReg 9#4) ∧
    decodeTableWord 16 0b1001010000000011 = some (.bzReg 3#4) ∧
    decodeTableWord 16 0b1001110000000111 = some (.bnzReg 7#4) := by decide

/-- One illegal word for each of the seven cases (a) to (g) of R59, and the legal neighbour of each. -/
theorem test_decode_refuses_illegal_words :
    ([0x8800, 0x1010, 0x7808, 0x3010, 0xC010, 0xD0FF, 0x2410].map fun w => decodeTableWord 16 w) =
      List.replicate 7 none ∧
    ([0x8400, 0x1000, 0x7800, 0x3000, 0xC000, 0xD1FF, 0x2400].all fun w => (decodeTableWord 16 w).isSome) = true := by
  decide

/-! ### One step -/

/-- The start state of the vectors: reset, with the values a row lists. -/
abbrev start : State := State.reset

/-- The next state, if there is one. -/
def nx : Host.Outcome State Fault Refusal → Option State
  | .next t => some t
  | _ => none

/-- One step of `s` with the word `w` at pc; what `f` sees of the next state. -/
def seen {α : Type} (w : Word) (s : State) (f : State → α) : Option α :=
  (nx (step { s with mem := s.mem.write s.pc.toNat w })).map f

/-- V4. -/
theorem test_addImm_wraps :
    seen 0x11FF { start with r0 := 0x8000#16 }
      (fun t => (t.r0, t.flagO, t.pc)) = some (0x7FFF#16, true, 0x65#16) := by decide

/-- V6. -/
theorem test_addImm_carry_is_no_overflow :
    seen 0x1101 { start with r0 := 0xFFFF#16, flagO := true }
      (fun t => (t.r0, t.flagO)) = some (0#16, false) := by decide

/-- V10. -/
theorem test_addReg_reads_incremented_pc :
    seen 0x1008 start (fun t => (t.r0, t.flagO)) = some (0x65#16, false) := by decide

/-- V5. -/
theorem test_addReg_source_is_destination :
    seen 0x1000 { start with r0 := 0x4000#16 } (fun t => (t.r0, t.flagO)) = some (0x8000#16, true) := by decide

/-- V8. -/
theorem test_addRegi :
    seen 0x1441 { start with r1 := 0x40#16, r2 := 1#16, mem := [(0x40, 0x10#16)] }
      (fun t => (t.r2, t.flagO)) = some (0x11#16, false) := by decide

/-- V13. -/
theorem test_addRegi_out_of_bounds :
    seen 0x1041 { start with r0 := 1#16, r1 := 0x8000#16, mem := [(0x8000, 1#16)] }
      (fun t => (t.run, t.pc)) = some (.crashed .segfault, 0x65#16) := by decide

/-- V9. -/
theorem test_addMemi :
    seen 0x14B0 { start with r2 := 1#16, mem := [(0x30, 0x40#16), (0x40, 7#16)] }
      (fun t => (t.r2, t.flagO)) = some (8#16, false) := by decide

/-- V16. -/
theorem test_addMemi_null_pointed_cell :
    seen 0x10B0 { start with mem := [(0x30, 0x41#16)] }
      (fun t => (t.run, t.pc)) = some (.crashed .segfault, 0x65#16) := by decide

/-- V22. -/
theorem test_divImm_truncates :
    seen 0x4102 { start with r0 := 0xFFF9#16 }
      (fun t => (t.r0, t.flagO, t.flagR)) = some (0xFFFD#16, false, true) := by decide

/-- V24. -/
theorem test_divImm_most_negative :
    seen 0x41FF { start with r0 := 0x8000#16 }
      (fun t => (t.r0, t.flagO, t.flagR)) = some (0x8000#16, true, false) := by decide

/-- V27. -/
theorem test_divReg_by_zero :
    seen 0x4001 { start with r0 := 9#16 }
      (fun t => (t.run, t.pc, t.r0)) = some (.crashed .divideByZero, 0x65#16, 9#16) := by decide

/-- V26. -/
theorem test_divReg_by_itself :
    seen 0x4000 { start with r0 := 5#16, flagR := true }
      (fun t => (t.r0, t.flagO, t.flagR)) = some (1#16, false, false) := by decide

/-- V29. -/
theorem test_divRegi_by_zero :
    seen 0x4041 { start with r0 := 9#16, r1 := 0x50#16, mem := [(0x50, 0#16)] }
      (fun t => (t.run, t.pc)) = some (.crashed .divideByZero, 0x65#16) := by decide

/-- R67 by hand: 7 / 2. -/
theorem test_divMemi :
    seen 0x40B0 { start with r0 := 7#16, mem := [(0x30, 0x40#16), (0x40, 2#16)] }
      (fun t => (t.r0, t.flagR)) = some (3#16, true) := by decide

/-- V30. -/
theorem test_cmpImm_equal :
    seen 0xA321 { start with r1 := 0x21#16, flagS := true }
      (fun t => (t.flagZ, t.flagS, t.r1)) = some (true, false, 0x21#16) := by decide

/-- V34. -/
theorem test_cmpReg_is_signed :
    seen 0xA001 { start with r0 := 0x8000#16, r1 := 0x7FFF#16 }
      (fun t => (t.flagZ, t.flagS)) = some (false, true) := by decide

/-- V37. -/
theorem test_cmpRegi :
    seen 0xA041 { start with r0 := 4#16, r1 := 0x40#16, mem := [(0x40, 5#16)] }
      (fun t => (t.flagZ, t.flagS)) = some (false, true) := by decide

/-- R68 by hand: 5 is not below 5. -/
theorem test_cmpMemi :
    seen 0xA0B0 { start with r0 := 5#16, mem := [(0x30, 0x40#16), (0x40, 5#16)] }
      (fun t => (t.flagZ, t.flagS)) = some (true, false) := by decide

/-- V45. -/
theorem test_nandImm_extends_the_sign :
    seen 0xB180 { start with r0 := 0xFFFF#16 } (fun t => t.r0) = some 0x7F#16 := by decide

/-- V40. -/
theorem test_nandReg_with_pc :
    seen 0xB608 { start with r3 := 0xFF#16 } (fun t => t.r3) = some 0xFF9A#16 := by decide

/-- R69 by hand. -/
theorem test_nandRegi :
    seen 0xB041 { start with r0 := 0xFF0F#16, r1 := 0x40#16, mem := [(0x40, 0xF0F0#16)] }
      (fun t => t.r0) = some 0x0FFF#16 := by decide

/-- R69 by hand. -/
theorem test_nandMemi :
    seen 0xB0B0 { start with r0 := 0xFF0F#16, mem := [(0x30, 0x40#16), (0x40, 0xF0F0#16)] }
      (fun t => t.r0) = some 0x0FFF#16 := by decide

/-- V52. -/
theorem test_movImm :
    seen 0xE380 start (fun t => t.r1) = some 0xFF80#16 := by decide

/-- V191. -/
theorem test_movImm_casts_to_float :
    seen 0xEFFF start (fun t => t.r7) = some 0xBF800000#32 := by decide

/-- V50. -/
theorem test_movReg :
    seen 0xE604 { start with r4 := 0xBEEF#16 } (fun t => (t.r3, t.r4)) = some (0xBEEF#16, 0xBEEF#16) := by decide

/-- V58. -/
theorem test_movReg_invalid :
    seen 0xE40F start (fun t => (t.run, t.pc)) = some (.crashed .invalidRegister, 0x65#16) := by decide

/-- V55. -/
theorem test_movRegi :
    seen 0xE441 { start with r1 := 0x40#16, mem := [(0x40, 0x10#16)] } (fun t => t.r2) = some 0x10#16 := by decide

/-- V57. -/
theorem test_movRegi_through_pc :
    seen 0xE448 start (fun t => (t.run, t.pc)) = some (.crashed .segfault, 0x65#16) := by decide

/-- V56. -/
theorem test_movMemi :
    seen 0xE4B0 { start with mem := [(0x30, 0x40#16), (0x40, 0x10#16)] } (fun t => t.r2) = some 0x10#16 := by decide

/-- V61. -/
theorem test_ld :
    seen 0x69FF { start with mem := [(0x1FF, 0xABCD#16)] } (fun t => t.r4) = some 0xABCD#16 := by decide

/-- V192. -/
theorem test_ld_casts_to_float :
    seen 0x6C40 { start with mem := [(0x40, 0x8000#16)] } (fun t => t.r6) = some 0xC7000000#32 := by decide

/-- V63. -/
theorem test_lea :
    seen 0xF8FF start (fun t => (t.r4, t.run)) = some (0xFF#16, .running) := by decide

/-- V69. -/
theorem test_stMem_into_its_own_cell :
    seen 0x7320 start (fun t => (t.mem, t.pc)) = some ([(0x64, 0#16)], 0x65#16) := by decide

/-- V66. -/
theorem test_stRegi :
    seen 0x7880 { start with r0 := 0x2A#16, r1 := 0x40#16 }
      (fun t => t.mem) = some ([(0x40, 0x2A#16), (0x64, 0x7880#16)]) := by decide

/-- V67. -/
theorem test_stRegi_out_of_bounds :
    seen 0x7880 { start with r0 := 0x2A#16, r1 := 0x8000#16 }
      (fun t => (t.run, t.mem)) = some (.crashed .segfault, [(0x64, 0x7880#16)]) := by decide

/-- V93. -/
theorem test_popReg :
    seen 0x3004 { start with sp := 0x50#16, bp := 0x7F#16, mem := [(0x50, 7#16)] }
      (fun t => (t.r4, t.sp, t.mem)) = some (7#16, 0x51#16, [(0x64, 0x3004#16)]) := by decide

/-- V98. -/
theorem test_popReg_into_pc_out_of_bounds :
    seen 0x3008 { start with mem := [(0x63, 0x8000#16)] }
      (fun t => (t.run, t.mem.read 0x63)) = some (.crashed .segfault, some 0x8000#16) := by decide

/-- V96. -/
theorem test_popMem :
    seen 0x3FFF { start with sp := 0x50#16, bp := 0x7F#16, mem := [(0x50, 9#16)] }
      (fun t => (t.sp, t.mem)) = some (0x51#16, [(0x64, 0x3FFF#16), (0x7FF, 9#16)]) := by decide

/-- V82. -/
theorem test_pushImm_grows_downward :
    seen 0xC1FF { start with bp := 0x7F#16 }
      (fun t => (t.sp, t.mem.read 0x62)) = some (0x62#16, some 0xFFFF#16) := by decide

/-- V86. -/
theorem test_pushImm_overflows :
    seen 0xC101 { start with sp := 0#16, bp := 0x7F#16 }
      (fun t => (t.run, t.sp)) = some (.crashed .stackOverflow, 0#16) := by decide

/-- V84. -/
theorem test_pushReg_grows_upward :
    seen 0xC002 { start with r2 := 0xABCD#16, sp := 0x70#16, bp := 0x20#16 }
      (fun t => (t.sp, t.mem.read 0x71)) = some (0x71#16, some 0xABCD#16) := by decide

/-- V148. -/
theorem test_int_prints_cells :
    seen 0xD108 { start with r0 := 0x40#16, r1 := 0x43#16, mem := [(0x40, 0x48#16), (0x42, 0x49#16)] }
      (fun t => t.out) = some ([.printMem [(0x40, 0x48#16), (0x42, 0x49#16)]]) := by decide

/-- V172. -/
theorem test_int_unlisted :
    seen 0xD1F9 start (fun t => (t.run, t.pc)) = some (.crashed .illegalInstruction, 0x65#16) := by decide

/-- V111. -/
theorem test_jmpMem :
    seen 0x83FF start (fun t => (t.pc, t.sp, t.mem)) = some (0x3FF#16, 0x63#16, [(0x64, 0x83FF#16)]) := by decide

/-- V113. -/
theorem test_jmpReg_out_of_bounds :
    seen 0x8402 { start with r2 := 0x8000#16 }
      (fun t => (t.run, t.pc)) = some (.crashed .segfault, 0x65#16) := by decide

/-- V106. -/
theorem test_ret :
    seen 0x5000 { start with sp := 0x50#16, bp := 0x7F#16, mem := [(0x50, 0x123#16)] }
      (fun t => (t.pc, t.sp, t.mem.read 0x50)) = some (0x123#16, 0x51#16, none) := by decide

/-- V105. -/
theorem test_ret_underflow :
    seen 0x5000 start (fun t => (t.run, t.pc)) = some (.crashed .stackUnderflow, 0x65#16) := by decide

/-- V127. -/
theorem test_boMem :
    seen 0x2070 { start with pushRet := false } (fun t => t.pc) = some 0x65#16 := by decide

/-- R84 by hand. -/
theorem test_boReg :
    seen 0x2403 { start with r3 := 0x300#16, flagO := true, pushRet := false }
      (fun t => t.pc) = some 0x300#16 := by decide

/-- V128. -/
theorem test_bnoMem :
    seen 0x2870 { start with pushRet := false } (fun t => t.pc) = some 0x70#16 := by decide

/-- R85 by hand. -/
theorem test_bnoReg :
    seen 0x2C03 { start with r3 := 0x300#16, flagO := true, pushRet := false }
      (fun t => t.pc) = some 0x65#16 := by decide

/-- V118, at 0x66. -/
theorem test_blMem_pushes :
    seen 0x5003 { start with pc := 0x66#16, flagS := true }
      (fun t => (t.pc, t.sp, t.mem.read 0x63)) = some (3#16, 0x63#16, some 0x67#16) := by decide

/-- V134. -/
theorem test_blReg_reaches_zero :
    seen 0x5400 { start with flagS := true, pushRet := false } (fun t => t.pc) = some 0#16 := by decide

/-- V124. -/
theorem test_bgMem_on_equality :
    seen 0x5870 { start with flagZ := true, pushRet := false } (fun t => t.pc) = some 0x70#16 := by decide

/-- R89 by hand. -/
theorem test_bgReg :
    seen 0x5C03 { start with r3 := 0x300#16, flagS := true, pushRet := false }
      (fun t => t.pc) = some 0x65#16 := by decide

/-- V121. -/
theorem test_bzMem_pushes_downward :
    seen 0x9070 { start with flagZ := true, sp := 0x50#16, bp := 0x7F#16 }
      (fun t => (t.pc, t.sp, t.mem.read 0x4F)) = some (0x70#16, 0x4F#16, some 0x65#16) := by decide

/-- V131. -/
theorem test_bzReg_invalid_not_taken :
    seen 0x940B { start with pushRet := false }
      (fun t => (t.run, t.pc)) = some (.crashed .invalidRegister, 0x65#16) := by decide

/-- V122. -/
theorem test_bnzMem :
    seen 0x9870 { start with flagZ := true } (fun t => (t.pc, t.mem.read 0x63)) = some (0x65#16, none) := by decide

/-- R87 by hand. -/
theorem test_bnzReg :
    seen 0x9C03 { start with r3 := 0x300#16, pushRet := false } (fun t => t.pc) = some 0x300#16 := by decide

/-- V184. -/
theorem test_hlt :
    seen 0x0ABC start (fun t => (t.run, t.pc)) = some (.halted, 0x65#16) := by decide

/-- V182. -/
theorem test_fetch_at_the_last_cell :
    seen 0xD1FF { start with pc := 0xFFFF#16 }
      (fun t => (t.run, t.pc)) = some (.crashed .segfault, 0xFFFF#16) := by decide

/-- V71. -/
theorem test_store_through_pc_is_fetched :
    seen 0x7C00 { start with r0 := 0x77#16 } (fun t => t.mem.read 0x65) = some (some 0x77#16) := by decide

/-- V180: the fetch of a NULL cell. -/
theorem test_fetch_of_null : (nx (step start)).map (fun t => (t.run, t.pc)) = some (.crashed .segfault, 0x64#16) := by
  decide

/-- V185: a machine that is not running has no step. -/
theorem test_terminal_states :
    nx (step { start with run := .halted }) = none ∧ nx (step { start with run := .crashed .segfault }) = none := by
  decide

/-- A ROM of the manual's shape: version, start 0x64, and HLT at 0x64 (95_test_vectors.md section 5). -/
theorem test_loadRom :
    (loadRom [0#8, 3#8, 0x02#8, 0x64#8, 0#8, 0#8]).toOption.map (fun s => (s.pc, s.mem, s.sp)) =
      some (0x64#16, [(0x64, 0#16)], 0x63#16) := by decide

/-- R35: the corners of the screen, and a space for a NULL cell. -/
theorem test_screen :
    screenCell ⟨0, by decide⟩ ⟨0, by decide⟩ = 0xFF ∧ screenCell ⟨29, by decide⟩ ⟨74, by decide⟩ = 0x9C8 ∧
    screenCode [(0xFF, 0x1241#16)] ⟨0, by decide⟩ ⟨0, by decide⟩ = 0x41#8 ∧
    screenCode [] ⟨0, by decide⟩ ⟨1, by decide⟩ = 0x20#8 := by decide

/-- The table word is the instruction the first step after reset runs. -/
theorem test_withFetchWord :
    (nx (step (State.reset.withFetchWord 16 0x1B03))).map (fun t => (t.r5, t.pc)) = some (3#16, 0x65#16) := by decide

/-! ### Witnesses: states and operands that meet the hypotheses of each statement together

A name is that of the statement in Certificates/Slice0/Obligations.lean; several clauses have one part each. -/

/-- A downward stack with room to push, and one word on it. -/
abbrev downward : State := { start with sp := 0x50#16, bp := 0x7F#16, mem := [(0x50, 7#16)] }

/-- An upward stack that cannot grow: sp at the last address. -/
abbrev fullUp : State := { start with sp := 0xFFFF#16, bp := 0xFFFE#16, flagZ := true }

/-- A downward stack that cannot grow: sp at address 0. -/
abbrev fullDown : State := { start with sp := 0#16, bp := 1#16, flagZ := true }

theorem witness_haltAndReturn :
    (0x0FFF#16).toNat ≤ 0x0FFF ∧ decode 0x0FFF#16 = .ok (.hlt 0xFFF#12) ∧ decode 0x5001#16 = .ok (.blMem 1#10) := by
  decide

theorem witness_decodeOfEncode : (Instr.blMem 1#10).wellFormed = true ∧ (Instr.stRegi 15#4 7#3).wellFormed = true := by
  decide

theorem witness_encodeOfDecode : decode 0x7F87#16 = .ok (.stRegi 15#4 7#3) := by decide

theorem witness_stepRunsTheDecodedInstruction :
    ({ start with pc := 0xFFFE#16, mem := [(0xFFFE, 0x1B03#16)] } : State).fetches 0x1B03#16 ∧
    decode 0x1B03#16 = .ok (.addImm 5#3 3#8) := ⟨⟨rfl, by decide, by decide⟩, by decide⟩

theorem witness_stepErrorsOfFetchAndDecode :
    (start.run = .running ∧ start.mem.read start.pc.toNat = none) ∧
    (let s : State := { start with pc := 0xFFFF#16, mem := [(0xFFFF, 0#16)] };
      s.run = .running ∧ s.mem.read s.pc.toNat = some 0#16 ∧ s.pc = 0xFFFF#16) ∧
    (let s : State := { start with pc := 0xFFFE#16, mem := [(0xFFFE, 0x8800#16)] };
      s.run = .running ∧ s.mem.read s.pc.toNat = some 0x8800#16 ∧ s.pc ≠ 0xFFFF#16 ∧
      decode 0x8800#16 = .error .invertedJump) := by decide

theorem witness_onlyRunningMachinesStep :
    start.run = .running ∧ exec (.hlt 0#12) start = .next { start with run := .halted } ∧
    ({ start with run := .halted } : State).run = .halted ∧
    ({ start with run := .crashed .segfault } : State).run = .crashed .segfault := ⟨rfl, rfl, rfl, rfl⟩

theorem witness_stepKeepsMemoryCanonical :
    (start.withFetchWord 16 0xC104).Inv ∧
    step (start.withFetchWord 16 0xC104) =
      .next { start with pc := 0x65#16, ir := 0xC104#16, mem := [(0x63, 4#16), (0x64, 0xC104#16)] } := by
  refine ⟨?_, rfl⟩
  unfold State.Inv
  decide

theorem witness_rightSideValues :
    (regOf 9#4 = .ok .sp) ∧
    (let s : State := { start with r1 := 0x7FFF#16, mem := [(0x7FFF, 5#16)] };
      regOf 1#4 = .ok (.gpr (.word .r1)) ∧ (readReg s (.gpr (.word .r1))).msb = false ∧
      s.mem.read (readReg s (.gpr (.word .r1))).toNat = some 5#16) ∧
    ((readReg { start with r1 := 0x8000#16 } (.gpr (.word .r1))).msb = true) ∧
    (start.mem.read (readReg { start with r1 := 0x7FFF#16 } (.gpr (.word .r1))).toNat = none) ∧
    (let s : State := { start with mem := [(0x7F, 0x7FFF#16), (0x7FFF, 5#16)] };
      s.mem.read (0x7F#7).toNat = some 0x7FFF#16 ∧ (0x7FFF#16).msb = false ∧ s.mem.read (0x7FFF#16).toNat = some 5#16) ∧
    (start.mem.read (0x7F#7).toNat = none) ∧
    (({ start with mem := [(0x7F, 0x8000#16)] } : State).mem.read (0x7F#7).toNat = some 0x8000#16 ∧
      (0x8000#16).msb = true) ∧
    (({ start with mem := [(0x7F, 0x7FFF#16)] } : State).mem.read (0x7F#7).toNat = some 0x7FFF#16 ∧
      ({ start with mem := [(0x7F, 0x7FFF#16)] } : State).mem.read (0x7FFF#16).toNat = none) :=
  ⟨rfl, ⟨rfl, rfl, rfl⟩, rfl, rfl, ⟨rfl, rfl, rfl⟩, rfl, ⟨rfl, rfl⟩, rfl, rfl⟩

theorem witness_rightSideErrorsCrash :
    rhsValue start (.regi 10#4) = .error .invalidRegister ∧ rhsValue start (.memi 0x30#7) = .error .segfault ∧
    rhsValue { start with r1 := 0x8000#16 } (.regi 1#4) = .error .segfault := ⟨rfl, rfl, rfl⟩

theorem witness_invalidRegisterFieldsCrash :
    regField (.boReg 10#4) = some 10#4 ∧ 10 ≤ (10#4).toNat ∧ regField (.stRegi 15#4 0#3) = some 15#4 ∧
    10 ≤ (15#4).toNat := by decide

theorem witness_floatCastIsExact : (0x8000#16 : Word) ≠ 0#16 ∧ (1#16 : Word) ≠ 0#16 := by decide

theorem witness_addIntoWordRegister :
    gprOf 0#3 = .word .r0 ∧ rhsValue { start with r0 := 0x7FFF#16 } (.imm 1#8) = .ok (.word 1#16) := ⟨rfl, rfl⟩

theorem witness_divOfWordRegister :
    gprOf 5#3 = .word .r5 ∧ rhsValue start (.imm 0xFF#8) = .ok (.word 0xFFFF#16) ∧
    (Value.word 0xFFFF#16).asWord ≠ 0#16 ∧ rhsValue start (.imm 0#8) = .ok (.word 0#16) ∧
    (Value.word 0#16).asWord = 0#16 := ⟨rfl, rfl, by decide, rfl, rfl⟩

theorem witness_floatArithmeticRuns :
    gprOf 6#3 = .float .r6 ∧ rhsValue start (.reg 7#4) = .ok (.float 0#32) ∧
    (Value.float 0#32 = .float 0#32 ∨ ∃ w, Value.float 0#32 = .word w ∧ 0#32 = i2f w) ∧
    rhsValue start (.imm 3#8) = .ok (.word 3#16) ∧
    (Value.word 3#16 = .float 0x40400000#32 ∨ ∃ w, Value.word 3#16 = .word w ∧ 0x40400000#32 = i2f w) :=
  ⟨rfl, rfl, .inl rfl, rfl, .inr ⟨3#16, rfl, by decide⟩⟩

theorem witness_compareWritesZeroAndSign :
    rhsValue start (.imm 0x80#8) = .ok (.word 0xFF80#16) ∧ gprOf 0#3 = .word .r0 ∧ gprOf 7#3 = .float .r7 :=
  ⟨rfl, rfl, rfl⟩

theorem witness_nandIntoRegister :
    rhsValue start (.reg 8#4) = .ok (.word 0x64#16) ∧ gprOf 5#3 = .word .r5 ∧ gprOf 6#3 = .float .r6 :=
  ⟨rfl, rfl, rfl⟩

theorem witness_moveIntoRegister :
    (gprOf 0#3 = .word .r0 ∧ rhsValue start (.reg 9#4) = .ok (.word 0x63#16)) ∧
    (gprOf 6#3 = .float .r6 ∧ rhsValue start (.reg 7#4) = .ok (.float 0#32)) := ⟨⟨rfl, rfl⟩, rfl, rfl⟩

theorem witness_loadReadsTheCell :
    ({ start with mem := [(0x1FF, 5#16)] } : State).mem.read (0x1FF#9).toNat = some 5#16 ∧
    start.mem.read (0#9).toNat = none ∧ gprOf 7#3 = .float .r7 ∧ gprOf 0#3 = .word .r0 := ⟨rfl, rfl, rfl, rfl⟩

theorem witness_leaLoadsTheAddress : gprOf 5#3 = .word .r5 ∧ gprOf 7#3 = .float .r7 := ⟨rfl, rfl⟩

theorem witness_storeWritesOneCell :
    regOf 1#4 = .ok (.gpr (.word .r1)) ∧
    (readReg { start with r1 := 0x7FFF#16 } (.gpr (.word .r1))).msb = false ∧
    (readReg { start with r1 := 0x8000#16 } (.gpr (.word .r1))).msb = true := ⟨rfl, rfl, rfl⟩

theorem witness_storeThroughPcIsFetchedNext : start.run = .running ∧ start.pc.msb = false := ⟨rfl, rfl⟩

theorem witness_pushWritesTheNewTop :
    ({ start with sp := 0xFFFE#16, bp := 0#16 } : State).pushesTo 0xFFFF#16 ∧
    ({ start with sp := 1#16, bp := 0xFFFF#16 } : State).pushesTo 0#16 ∧ start.pushesTo 0x63#16 ∧
    regOf 9#4 = .ok .sp :=
  ⟨.inl ⟨by decide, by decide⟩, .inr (.inl ⟨by decide, by decide⟩), .inr (.inr ⟨rfl, rfl⟩), rfl⟩

theorem witness_pushOverflowCrashes :
    fullUp.pushOverflows ∧ fullDown.pushOverflows ∧ regOf 0#4 = .ok (.gpr (.word .r0)) ∧
    placeOf (.mem 0#10) = .ok (.addr 0#10) ∧ taken fullUp .bz ∧ fullUp.pushRet = true ∧ taken fullDown .bz ∧
    fullDown.pushRet = true :=
  ⟨.inl ⟨by decide, by decide⟩, .inr ⟨by decide, by decide⟩, rfl, rfl, rfl, rfl, rfl, rfl⟩

theorem witness_popIntoGeneralRegister :
    downward.Inv ∧ regOf 4#4 = .ok (.gpr (.word .r4)) ∧ regOf 6#4 = .ok (.gpr (.float .r6)) ∧
    downward.mem.read downward.sp.toNat = some 7#16 ∧ popsTo downward.bp downward.sp 0x51#16 :=
  ⟨by unfold State.Inv; decide, rfl, rfl, rfl, .inr (.inl ⟨by decide, by decide⟩)⟩

theorem witness_popIntoMemory :
    (let s : State := { start with sp := 0xFFFF#16, bp := 0#16, mem := [(0xFFFF, 7#16)] };
      s.Inv ∧ s.mem.read s.sp.toNat = some 7#16 ∧ popsTo s.bp s.sp 0xFFFE#16) ∧
    (let s : State := { start with mem := [(0x63, 7#16)] };
      s.Inv ∧ s.mem.read s.sp.toNat = some 7#16 ∧ popsTo s.bp s.sp 0x63#16) :=
  ⟨⟨by unfold State.Inv; decide, rfl, .inl ⟨by decide, by decide⟩⟩,
    by unfold State.Inv; decide, rfl, .inr (.inr ⟨rfl, rfl⟩)⟩

theorem witness_returnPopsPc :
    (let s : State := { downward with mem := [(0x50, 0x7FFF#16)] };
      s.Inv ∧ s.mem.read s.sp.toNat = some 0x7FFF#16 ∧ popsTo s.bp s.sp 0x51#16 ∧ (0x7FFF#16).msb = false) ∧
    (let s : State := { downward with mem := [(0x50, 0x8000#16)] };
      s.Inv ∧ s.mem.read s.sp.toNat = some 0x8000#16 ∧ popsTo s.bp s.sp 0x51#16 ∧ (0x8000#16).msb = true) :=
  ⟨⟨by unfold State.Inv; decide, rfl, .inr (.inl ⟨by decide, by decide⟩), rfl⟩,
    by unfold State.Inv; decide, rfl, .inr (.inl ⟨by decide, by decide⟩), rfl⟩

theorem witness_popIntoStackPointer :
    (let s : State := { downward with mem := [(0x50, 0x7FFF#16)] };
      s.Inv ∧ s.mem.read s.sp.toNat = some 0x7FFF#16 ∧ popsTo s.bp 0x7FFF#16 0x7FFE#16 ∧ (0x7FFF#16).msb = false) ∧
    (let s : State := { downward with mem := [(0x50, 0x8000#16)] };
      s.Inv ∧ s.mem.read s.sp.toNat = some 0x8000#16 ∧ popsTo s.bp 0x8000#16 0x7FFF#16 ∧ (0x8000#16).msb = true) :=
  ⟨⟨by unfold State.Inv; decide, rfl, .inl ⟨by decide, by decide⟩, rfl⟩,
    by unfold State.Inv; decide, rfl, .inl ⟨by decide, by decide⟩, rfl⟩

theorem witness_popUnderflowCrashes : start.mem.read start.sp.toNat = none ∧ regOf 9#4 = .ok .sp := ⟨rfl, rfl⟩

theorem witness_popUndoesPush :
    (let t : State := { downward with sp := 0x4F#16, mem := [(0x4F, 0xFFFF#16), (0x50, 7#16)] };
      downward.Inv ∧ downward.pushesTo t.sp ∧ regOf 4#4 = .ok (.gpr (.word .r4)) ∧
      exec (.pushImm 0xFF#8) downward = .next t) :=
  ⟨by unfold State.Inv; decide, .inr (.inl ⟨by decide, by decide⟩), rfl, rfl⟩

theorem witness_jumpSetsPc :
    regOf 2#4 = .ok (.gpr (.word .r2)) ∧
    (readReg { start with r2 := 0x7FFF#16 } (.gpr (.word .r2))).msb = false ∧
    (readReg { start with r2 := 0x8000#16 } (.gpr (.word .r2))).msb = true := ⟨rfl, rfl, rfl⟩

theorem witness_branchWithoutPush :
    (¬ taken start .bz ∧ placeOf (.reg 9#4) = .ok (.inReg .sp)) ∧
    (let s : State := { start with pushRet := false, r2 := 0x7FFF#16 };
      taken s .bnz ∧ s.pushRet = false ∧ regOf 2#4 = .ok (.gpr (.word .r2)) ∧
      (readReg s (.gpr (.word .r2))).msb = false) ∧
    (let s : State := { start with pushRet := false, r2 := 0x8000#16 };
      taken s .bg ∧ s.pushRet = false ∧ regOf 2#4 = .ok (.gpr (.word .r2)) ∧
      (readReg s (.gpr (.word .r2))).msb = true) :=
  ⟨⟨by simp [taken, start, State.reset, State.resetAt], rfl⟩, ⟨rfl, rfl, rfl, rfl⟩, rfl, rfl, rfl, rfl⟩

theorem witness_branchTakenPushesReturnAddress :
    taken downward .bno ∧ downward.pushRet = true ∧ downward.pushesTo 0x4F#16 ∧ regOf 9#4 = .ok .sp ∧
    (readReg { downward with sp := 0x4F#16 } .sp).msb = false ∧
    (let s : State := { downward with r3 := 0x8000#16 };
      taken s .bno ∧ s.pushRet = true ∧ s.pushesTo 0x4F#16 ∧ regOf 3#4 = .ok (.gpr (.word .r3)) ∧
      (readReg { s with sp := 0x4F#16 } (.gpr (.word .r3))).msb = true) :=
  ⟨rfl, rfl, .inr (.inl ⟨by decide, by decide⟩), rfl, rfl, rfl, rfl, .inr (.inl ⟨by decide, by decide⟩), rfl, rfl⟩

theorem witness_returnResumesAfterBranch :
    downward.Inv ∧ taken downward .bg ∧ downward.pushRet = true ∧ downward.pushesTo 0x4F#16 ∧
    downward.pc.msb = false :=
  ⟨by unfold State.Inv; decide, rfl, rfl, .inr (.inl ⟨by decide, by decide⟩), rfl⟩

theorem witness_intErrorCodes :
    (14#8).toInt ∉ listedCodes ∧ (0xF9#8).toInt ∉ listedCodes ∧ (0x80#8).toInt ∉ listedCodes := by decide

theorem witness_intPrintsCells :
    (let s : State := { downward with r0 := 0x50#16, r1 := 0x7FFF#16 };
      s.Inv ∧ s.r1.msb = false ∧ s.r0.toNat ≤ s.r1.toNat) ∧
    (let s : State := { downward with r0 := 0x50#16, r1 := 0x50#16 };
      s.Inv ∧ s.r1.msb = false ∧ s.r0.toNat ≤ s.r1.toNat) ∧
    (let s : State := { downward with r0 := 0x7FFF#16, r1 := 0x7FFE#16 };
      s.Inv ∧ s.r0.msb = false ∧ s.r1.toNat < s.r0.toNat) ∧
    (let s : State := { downward with r1 := 0x8000#16 }; s.Inv ∧ s.r1.msb = true) ∧
    (let s : State := { downward with r0 := 0x8000#16 }; s.Inv ∧ s.r0.msb = true) := by
  unfold State.Inv
  decide

theorem witness_intReadsInput :
    (let s : State := { start with inChars := [.char 0x41#8], inLines := [.parsed [0x35#8] 5#16] };
      s.inChars = .char 0x41#8 :: [] ∧ s.inLines = .parsed [0x35#8] 5#16 :: []) := ⟨rfl, rfl⟩

theorem witness_intSleepAndPointers :
    ({ start with r4 := 0x7FFF#16 } : State).r4.msb = false ∧ ({ start with r4 := 0x8000#16 } : State).r4.msb = true :=
  ⟨rfl, rfl⟩

theorem witness_int71ClearsPushRet :
    (let s : State := { start with pushRet := false }; s.pushRet = false ∧ taken s .bno) := ⟨rfl, rfl⟩

theorem witness_basePointerWrittenOnlyByInt61 :
    exec (.int 61#8) start = .next { start with bp := 0#16 } ∧ ({ start with bp := 0#16 } : State).bp ≠ start.bp :=
  ⟨rfl, by decide⟩

theorem witness_pushRetReadOnlyByTakenBranches :
    (exec (.bzMem 0#10) start = .next start ∧ ∀ b tg, Instr.bzMem 0#10 = Instr.bcc b tg → ¬ taken start b) ∧
    (let s : State := { start with pushRet := false }; taken s .bnz ∧ s.pushRet = false) ∧
    (let t : State := { downward with pc := 0x63#16, sp := 0x4F#16, mem := [(0x4F, 0x64#16), (0x50, 7#16)] };
      taken downward .bnz ∧ downward.pushRet = true ∧ downward.pushesTo 0x4F#16 ∧
      exec (Instr.bcc .bnz (.mem 0x63#10)) downward = .next t ∧ ∀ e, t.run ≠ .crashed e) := by
  refine ⟨⟨rfl, fun b tg h => ?_⟩, ⟨rfl, rfl⟩, rfl, rfl, .inr (.inl ⟨by decide, by decide⟩), rfl, fun e => nofun⟩
  cases b <;> cases tg <;> simp [Instr.bcc] at h
  simp [taken, start, State.reset, State.resetAt]

theorem witness_instructionRegisterOnlyFetched :
    (let s : State := { start with mem := [(0x64, 0xE32A#16)] };
      let t : State := { start with r1 := 42#16, pc := 0x65#16, ir := 0xE32A#16, mem := [(0x64, 0xE32A#16)] };
      s.mem.read s.pc.toNat = some 0xE32A#16 ∧ step s = .next t) ∧
    exec (.movImm 1#3 42#8) start = .next { start with r1 := 42#16 } := ⟨⟨rfl, rfl⟩, rfl⟩

theorem witness_flagsReadOnlyByBranches :
    (exec (.int 13#8) start = .next { start with flagZ := true } ∧ ∀ b tg, Instr.int 13#8 ≠ Instr.bcc b tg) ∧
    exec (Instr.bcc .bz (.mem 0#10)) start = .next start := by
  refine ⟨⟨rfl, fun b tg => ?_⟩, rfl⟩
  cases b <;> cases tg <;> simp [Instr.bcc]

theorem witness_flagWriters :
    (exec (.cmpImm 0#3 0#8) { start with flagS := true } = .next { start with flagZ := true }) ∧
    (exec (.divImm 0#3 0xFF#8) { start with r0 := 0x8000#16, flagR := true } =
      .next { start with r0 := 0x8000#16, flagO := true }) := ⟨rfl, rfl⟩

theorem witness_cellsBecomeNullOnlyByPop :
    downward.Inv ∧ exec (.popReg 4#4) downward = .next { downward with r4 := 7#16, sp := 0x51#16, mem := [] } ∧
    downward.mem.read 0x50 ≠ none ∧ ({ downward with mem := [] } : State).mem.read 0x50 = none :=
  ⟨by unfold State.Inv; decide, rfl, by decide, rfl⟩

theorem witness_errorSources_and_errorsArePrecise :
    start.run = .running ∧ exec .ret start = .next { start with run := .crashed .stackUnderflow } ∧
    exec (.movRegi 0#3 8#4) start = .next { start with run := .crashed .segfault } ∧
    exec (.int 14#8) start = .next { start with run := .crashed .illegalInstruction } ∧
    exec (.divImm 0#3 0#8) start = .next { start with run := .crashed .divideByZero } ∧
    exec (.jmpReg 10#4) start = .next { start with run := .crashed .invalidRegister } ∧
    exec (.pushImm 0#8) fullDown = .next { fullDown with run := .crashed .stackOverflow } :=
  ⟨rfl, rfl, rfl, rfl, rfl, rfl, rfl⟩

theorem witness_outputOnlyGrows :
    step { start with mem := [(0x64, 0xD100#16)] } =
      .next { start with pc := 0x65#16, ir := 0xD100#16, mem := [(0x64, 0xD100#16)],
                         out := [.printReg (.word .r0) (.word 0#16)] } := rfl

theorem witness_romLoads :
    (0xFF#8).toNat + (List.replicate 65281 (0#16 : Word)).length ≤ 65536 ∧
    65536 < (0xFF#8).toNat + (List.replicate 65282 (0#16 : Word)).length ∧
    (0x0364#16).extractLsb' 8 8 ≠ 0x02#8 ∧ ([0#8] : List Byte).length % 2 = 1 ∧
    (([0#8, 0#8] : List Byte).length % 2 = 0 ∧ ([0#8, 0#8] : List Byte).length < 4) := by
  simp only [List.length_replicate]
  decide

theorem witness_screenShowsVideoMemory :
    (0x00FF ≤ 0x9C8 ∧ 0x9C8 ≤ 0x09C8) ∧ Memory.read [] (screenCell ⟨29, by decide⟩ ⟨74, by decide⟩) = none ∧
    regOf 1#4 = .ok (.gpr (.word .r1)) ∧
    (readReg { start with r1 := 0x9C8#16 } (.gpr (.word .r1))).toNat = screenCell ⟨29, by decide⟩ ⟨74, by decide⟩ ∧
    screenCell ⟨1, by decide⟩ ⟨0, by decide⟩ = screenCell ⟨1, by decide⟩ ⟨0, by decide⟩ := ⟨by decide, rfl, rfl, rfl, rfl⟩

end Sys2Proof.Tests
end

section
/-!
PROOFS. O52 (10_state.md R15): no instruction reads or writes ir. Replacing ir commutes with every operation an
instruction is made of, hence with `exec`; that an instruction leaves ir alone is the case where ir is replaced by
itself.
-/

namespace Sys2Proof.Machine

/-- An outcome with ir replaced in the next state, if there is one. -/
def replaceIr (x : Word) : Host.Outcome State Fault Refusal → Host.Outcome State Fault Refusal
  | .next t => .next (t.setIr x)
  | .fault r => .fault r
  | .refused r => .refused r

@[simp] theorem replaceIr_next (x : Word) (t : State) : replaceIr x (.next t) = .next (t.setIr x) := rfl

@[simp] theorem State.setIr_self (s : State) : s.setIr s.ir = s := rfl

@[simp] theorem State.setIr_setIr (s : State) (x y : Word) : (s.setIr x).setIr y = s.setIr y := rfl

section Noninterference

variable (s : State) (x : Word)

/-! ### What is read does not depend on ir -/

@[simp] theorem regValue_setIr (r : Reg) : regValue (s.setIr x) r = regValue s r := by
  rcases r with (r | r) | _ | _ <;> simp [regValue]

@[simp] theorem readReg_setIr (r : Reg) : readReg (s.setIr x) r = readReg s r := by
  simp [readReg]

@[simp] theorem memRead_setIr (a : Int) : memRead (s.setIr x) a = memRead s a := rfl

@[simp] theorem rhsValue_setIr (rhs : Rhs) : rhsValue (s.setIr x) rhs = rhsValue s rhs := by
  have hreg : regValue (s.setIr x) = regValue s := funext (regValue_setIr s x)
  cases rhs <;> simp [rhsValue, hreg]

@[simp] theorem placeAddr_setIr (p : Place) : placeAddr (s.setIr x) p = placeAddr s p := by
  cases p <;> simp [placeAddr]

@[simp] theorem condition_setIr (b : Branch) : condition (s.setIr x) b = condition s b := by
  cases b <;> rfl

/-! ### What is written is written beside ir -/

theorem setWord_setIr (r : WordReg) (v : Word) : (s.setIr x).setWord r v = (s.setWord r v).setIr x := by
  cases r <;> rfl

theorem setFloat_setIr (r : FloatReg) (v : FloatWord) : (s.setIr x).setFloat r v = (s.setFloat r v).setIr x := by
  cases r <;> rfl

theorem writeGpr_setIr (g : Gpr) (v : Word) : writeGpr (s.setIr x) g v = (writeGpr s g v).setIr x := by
  cases g with
  | word r => exact setWord_setIr s x r v
  | float r => exact setFloat_setIr s x r (i2f v)

theorem memWrite_setIr (a : Int) (v : Word) :
    memWrite (s.setIr x) a v = (memWrite s a v).map (State.setIr · x) := by
  unfold memWrite
  cases oob a <;> rfl

theorem setpc_setIr (a : Int) : setpc (s.setIr x) a = (setpc s a).map (State.setIr · x) := by
  unfold setpc
  cases oob a <;> rfl

theorem setsp_setIr (a : Int) : setsp (s.setIr x) a = (setsp s a).map (State.setIr · x) := by
  unfold setsp
  cases oob a <;> rfl

theorem setbp_setIr (a : Int) : setbp (s.setIr x) a = (setbp s a).map (State.setIr · x) := by
  unfold setbp
  cases oob a <;> rfl

theorem writeReg_setIr (r : Reg) (v : Word) :
    writeReg (s.setIr x) r v = (writeReg s r v).map (State.setIr · x) := by
  cases r with
  | gpr g => exact congrArg Except.ok (writeGpr_setIr s x g v)
  | pc => exact setpc_setIr s x (toaddr v)
  | sp => exact setsp_setIr s x (toaddr v)

theorem push_setIr {e : State → Word} (he : ∀ t : State, e (t.setIr x) = e t) :
    push (s.setIr x) e = (push s e).map (State.setIr · x) := by
  have hsp : pushSp (s.setIr x) = pushSp s := rfl
  unfold push
  rw [hsp]
  cases pushSp s with
  | error err => rfl
  | ok p => exact congrArg (fun w => Except.ok (((s.setSp p).setMem (s.mem.write p.toNat w)).setIr x)) (he (s.setSp p))

theorem pop_setIr {dst : State → Word → Except MachineError State}
    (hdst : ∀ v, dst (s.setIr x) v = (dst s v).map (State.setIr · x)) :
    pop (s.setIr x) dst = (pop s dst).map (State.setIr · x) := by
  simp only [pop, State.setIr_mem, State.setIr_sp]
  cases s.mem.read s.sp.toNat with
  | none => rfl
  | some v =>
    simp only [hdst]
    cases dst s v <;> rfl

/-! ### How an instruction ends -/

theorem complete_setIr (r : Except MachineError State) :
    complete (s.setIr x) (r.map (State.setIr · x)) = replaceIr x (complete s r) := by
  cases r <;> rfl

theorem complete_map_setIr {α : Type} (r : Except MachineError α) (f : α → State) :
    complete (s.setIr x) (r.map fun v => (f v).setIr x) = replaceIr x (complete s (r.map f)) := by
  cases r <;> rfl

theorem complete_bind_setIr {α : Type} (r : Except MachineError α) (f : α → Except MachineError State) :
    complete (s.setIr x) (r.bind fun v => (f v).map (State.setIr · x)) = replaceIr x (complete s (r.bind f)) := by
  cases r with
  | error e => rfl
  | ok v => exact complete_setIr s x (f v)

/-! ### ADD, DIV, CMP, NAND, MOV -/

theorem addInto_setIr (v : Value) (g : Gpr) : addInto (s.setIr x) v g = (addInto s v g).setIr x := by
  cases g with
  | word r => cases r <;> rfl
  | float r => cases r <;> rfl

theorem divInto_setIr (v : Value) (g : Gpr) :
    divInto (s.setIr x) v g = (divInto s v g).map (State.setIr · x) := by
  cases g with
  | word r =>
    simp only [divInto, State.setIr_getWord]
    split
    · rfl
    · cases r <;> rfl
  | float r =>
    simp only [divInto, State.setIr_getFloat]
    split
    · rfl
    · cases r <;> rfl

theorem compareWith_setIr (v : Value) (g : Gpr) : compareWith (s.setIr x) v g = (compareWith s v g).setIr x := by
  cases g with
  | word r => cases r <;> rfl
  | float r => cases r <;> rfl

theorem nandInto_setIr (v : Value) (g : Gpr) : nandInto (s.setIr x) v g = (nandInto s v g).setIr x := by
  simp only [nandInto, readReg_setIr, writeGpr_setIr]

theorem moveInto_setIr (v : Value) (g : Gpr) : moveInto (s.setIr x) v g = (moveInto s v g).setIr x := by
  cases g with
  | word r => exact setWord_setIr s x r v.asWord
  | float r => exact setFloat_setIr s x r v.asFloat

theorem execAdd_setIr (d : BitVec 3) (rhs : Rhs) : execAdd d rhs (s.setIr x) = replaceIr x (execAdd d rhs s) := by
  simp only [execAdd, rhsValue_setIr, addInto_setIr, complete_map_setIr]

theorem execDiv_setIr (d : BitVec 3) (rhs : Rhs) : execDiv d rhs (s.setIr x) = replaceIr x (execDiv d rhs s) := by
  simp only [execDiv, rhsValue_setIr, divInto_setIr, complete_bind_setIr]

theorem execCmp_setIr (d : BitVec 3) (rhs : Rhs) : execCmp d rhs (s.setIr x) = replaceIr x (execCmp d rhs s) := by
  simp only [execCmp, rhsValue_setIr, compareWith_setIr, complete_map_setIr]

theorem execNand_setIr (d : BitVec 3) (rhs : Rhs) : execNand d rhs (s.setIr x) = replaceIr x (execNand d rhs s) := by
  simp only [execNand, rhsValue_setIr, nandInto_setIr, complete_map_setIr]

theorem execMov_setIr (d : BitVec 3) (rhs : Rhs) : execMov d rhs (s.setIr x) = replaceIr x (execMov d rhs s) := by
  simp only [execMov, rhsValue_setIr, moveInto_setIr, complete_map_setIr]

/-! ### LD, LEA, ST -/

theorem execLd_setIr (d : BitVec 3) (a : BitVec 9) : execLd d a (s.setIr x) = replaceIr x (execLd d a s) := by
  simp only [execLd, memRead_setIr, writeGpr_setIr, complete_map_setIr]

theorem execLea_setIr (d : BitVec 3) (a : BitVec 9) : execLea d a (s.setIr x) = replaceIr x (execLea d a s) := by
  simp only [execLea, writeGpr_setIr, complete_ok, replaceIr_next]

theorem execStMem_setIr (a : BitVec 8) (r : BitVec 3) :
    execStMem a r (s.setIr x) = replaceIr x (execStMem a r s) := by
  simp only [execStMem, readReg_setIr, memWrite_setIr, complete_setIr]

theorem execStRegi_setIr (n : BitVec 4) (r : BitVec 3) :
    execStRegi n r (s.setIr x) = replaceIr x (execStRegi n r s) := by
  simp only [execStRegi, readReg_setIr, memWrite_setIr, complete_bind_setIr]

/-! ### POP, RET, PUSH -/

theorem execPopReg_setIr (n : BitVec 4) : execPopReg n (s.setIr x) = replaceIr x (execPopReg n s) := by
  have hpop (r : Reg) := pop_setIr s x (dst := fun t v => writeReg t r v) (writeReg_setIr s x r)
  simp only [execPopReg, hpop, complete_bind_setIr]

theorem execPopMem_setIr (a : BitVec 11) : execPopMem a (s.setIr x) = replaceIr x (execPopMem a s) := by
  have hpop := pop_setIr s x (dst := fun t v => memWrite t (a.toNat : Int) v) (memWrite_setIr s x _)
  simp only [execPopMem, hpop, complete_setIr]

theorem execRet_setIr : execRet (s.setIr x) = replaceIr x (execRet s) := by
  have hpop := pop_setIr s x (dst := fun t v => writeReg t .pc v) (writeReg_setIr s x .pc)
  simp only [execRet, hpop, complete_setIr]

theorem execPushImm_setIr (i : BitVec 8) : execPushImm i (s.setIr x) = replaceIr x (execPushImm i s) := by
  have hpush := push_setIr s x (e := fun _ => sext8 i) fun _ => rfl
  simp only [execPushImm, hpush, complete_setIr]

theorem execPushReg_setIr (n : BitVec 4) : execPushReg n (s.setIr x) = replaceIr x (execPushReg n s) := by
  have hpush (r : Reg) := push_setIr s x (e := fun t => readReg t r) fun t => readReg_setIr t x r
  simp only [execPushReg, hpush, complete_bind_setIr]

/-! ### HLT, JMP, the branches -/

theorem execHlt_setIr (k : BitVec 12) : execHlt k (s.setIr x) = replaceIr x (execHlt k s) := rfl

theorem execJmp_setIr (tg : Target) : execJmp tg (s.setIr x) = replaceIr x (execJmp tg s) := by
  simp only [execJmp, placeAddr_setIr, setpc_setIr, complete_bind_setIr]

/-- The target is read, and pc set, in the state the push left. -/
theorem takeBranch_setIr (p : Place) : takeBranch p (s.setIr x) = replaceIr x (takeBranch p s) := by
  have hpush : push (s.setIr x) State.pc = (push s State.pc).map (State.setIr · x) :=
    push_setIr s x fun _ => rfl
  have hset (t : State) : complete (t.setIr x) (setpc (t.setIr x) (placeAddr (t.setIr x) p)) =
      replaceIr x (complete t (setpc t (placeAddr t p))) := by
    rw [placeAddr_setIr, setpc_setIr, complete_setIr]
  unfold takeBranch
  rw [hpush, State.setIr_pushRet]
  split
  · cases push s State.pc with
    | error e => rfl
    | ok t => exact hset t
  · exact hset s

theorem execBcc_setIr (b : Branch) (tg : Target) : execBcc b tg (s.setIr x) = replaceIr x (execBcc b tg s) := by
  unfold execBcc
  cases placeOf tg with
  | error e => rfl
  | ok p =>
    simp only [condition_setIr]
    split
    · exact takeBranch_setIr s x p
    · rfl

/-! ### INT -/

theorem printMemory_setIr : printMemory (s.setIr x) = (printMemory s).map (State.setIr · x) := by
  simp only [printMemory, State.setIr_getWord]
  split
  · rfl
  · split <;> rfl

theorem readChar_setIr : readChar (s.setIr x) = (readChar s).setIr x := by
  unfold readChar nextChar
  rw [State.setIr_inChars]
  cases s.inChars <;> rfl

theorem readLine_setIr : readLine (s.setIr x) = (readLine s).setIr x := by
  unfold readLine nextLine
  rw [State.setIr_inLines]
  cases s.inLines <;> rfl

theorem applyFlag_setIr (op : FlagOp) (f : Flag) : applyFlag (s.setIr x) op f = (applyFlag s op f).setIr x := by
  cases f <;> rfl

theorem runTask_setIr (k : IntTask) : runTask (s.setIr x) k = (runTask s k).map (State.setIr · x) := by
  cases k with
  | raises | sleep | setPushRet | unlisted => rfl
  | printReg g => simp only [runTask, regValue_setIr]; rfl
  | printMem => exact printMemory_setIr s x
  | readChar => exact congrArg Except.ok (readChar_setIr s x)
  | readLine => exact congrArg Except.ok (readLine_setIr s x)
  | flag f op => exact congrArg Except.ok (applyFlag_setIr s x op f)
  | setSp => exact setsp_setIr s x _
  | setBp => exact setbp_setIr s x _

theorem execInt_setIr (i : BitVec 8) : execInt i (s.setIr x) = replaceIr x (execInt i s) := by
  simp only [execInt, runTask_setIr, complete_setIr]

/-! ### Every instruction, the fetch and the step -/

/-- No instruction reads ir: with another ir it does the same, and leaves that other ir. -/
theorem exec_setIr (i : Instr) : exec i (s.setIr x) = replaceIr x (exec i s) := by
  cases i with
  | hlt k => exact execHlt_setIr s x k
  | addImm | addReg | addRegi | addMemi => simp [execAdd_setIr]
  | divImm | divReg | divRegi | divMemi => simp [execDiv_setIr]
  | cmpImm | cmpReg | cmpRegi | cmpMemi => simp [execCmp_setIr]
  | nandImm | nandReg | nandRegi | nandMemi => simp [execNand_setIr]
  | movImm | movReg | movRegi | movMemi => simp [execMov_setIr]
  | ld d a => exact execLd_setIr s x d a
  | lea d a => exact execLea_setIr s x d a
  | stMem a r => exact execStMem_setIr s x a r
  | stRegi n r => exact execStRegi_setIr s x n r
  | popReg n => exact execPopReg_setIr s x n
  | popMem a => exact execPopMem_setIr s x a
  | pushImm k => exact execPushImm_setIr s x k
  | pushReg n => exact execPushReg_setIr s x n
  | int k => exact execInt_setIr s x k
  | jmpMem | jmpReg => simp [execJmp_setIr]
  | ret => exact execRet_setIr s x
  | boMem | boReg | bnoMem | bnoReg | blMem | blReg | bgMem | bgReg | bzMem | bzReg | bnzMem | bnzReg =>
    simp [execBcc_setIr]

end Noninterference

/-- No instruction writes ir: replacing ir by itself changes nothing before, so it changes nothing after. -/
theorem exec_ir {i : Instr} {s t : State} (h : exec i s = .next t) : t.ir = s.ir := by
  have hself := exec_setIr s s.ir i
  rw [State.setIr_self, h, replaceIr_next, Host.Outcome.next.injEq] at hself
  rw [hself, State.setIr_ir]

/-- The fetch of an initialised cell forgets the old ir. -/
theorem fetch_setIr {s : State} {w : Word} (hw : s.mem.read s.pc.toNat = some w) (x : Word) :
    fetch (s.setIr x) = fetch s := by
  have hw' : (s.setIr x).mem.read (s.setIr x).pc.toNat = some w := hw
  unfold fetch
  rw [hw, hw']
  rfl

/-- A fetch of an initialised cell leaves its word in ir, also when it crashes at the last address. -/
theorem fetch_ir {s t : State} {w : Word} (hw : s.mem.read s.pc.toNat = some w)
    (h : fetch s = .ok t ∨ fetch s = .error t) : t.ir = w := by
  simp only [fetch, hw] at h
  split at h
  · obtain rfl : raise .segfault (s.setIr w) = t := by simpa using h
    rfl
  · obtain rfl : (s.setIr w).setPc (s.pc + 1) = t := by simpa using h
    rfl

/-- A step leaves in ir the word it fetched. -/
theorem step_ir {s t : State} {w : Word} (hw : s.mem.read s.pc.toNat = some w) (h : step s = .next t) :
    t.ir = w := by
  obtain ⟨-, hcrash | ⟨u, hu, ⟨e, -, rfl⟩ | ⟨i, -, hexec⟩⟩⟩ := step_next h
  · exact fetch_ir hw (.inr hcrash)
  · rw [raise_ir, fetch_ir hw (.inl hu)]
  · rw [exec_ir hexec, fetch_ir hw (.inl hu)]

/-- A step that fetches does not depend on what ir held. -/
theorem step_setIr {s : State} {w : Word} (hw : s.mem.read s.pc.toNat = some w) (x : Word) :
    step (s.setIr x) = step s := by
  simp only [step, State.setIr_run, fetch_setIr hw x]

/-- Settles O52: replacing ir commutes with every instruction, and the fetch overwrites it. -/
theorem instructionRegisterOnlyFetched : Obligations.InstructionRegisterOnlyFetched := by
  refine ⟨fun i s t x h => ?_, fun s t w hw h => step_ir hw h, fun s x w hw => step_setIr hw x⟩
  calc exec i (s.setIr x) = replaceIr x (exec i s) := exec_setIr s x i
    _ = .next (t.setIr x) := by rw [h, replaceIr_next]

end Sys2Proof.Machine
end

section
/-!
PROOFS. O2, O3 (30_encoding.md R48, R54): which words are HLT, RET, LD and LEA. The key fact is that a decoded
instruction's own word has the opcode of the word it came from, so an instruction is found under its opcode alone.
-/

namespace Sys2Proof

/-! ### Fields of a word cut after its opcode, and of format M -/

@[simp] theorem field_op_append (op : BitVec 4) (x : BitVec 12) : field (op ++ x) 12 4 = op :=
  BitVec.extractLsb'_append_eq_left

@[simp] theorem field_low_append (op : BitVec 4) (x : BitVec 12) : field (op ++ x) 0 12 = x :=
  BitVec.extractLsb'_append_eq_right

/-- What stands below the opcode, in one part or several, does not change it. -/
theorem opcode_append {m n : Nat} {op : BitVec 4} {x : BitVec (4 + m)} (hx : x.extractLsb' m 4 = op) (y : BitVec n) :
    (x ++ y).extractLsb' (m + n) 4 = op := by
  rw [BitVec.extractLsb'_append_eq_of_le (Nat.le_add_left n m), Nat.add_sub_cancel, hx]

@[simp] theorem formatM_op (op : BitVec 4) (d : BitVec 3) (a : BitVec 9) : field (op ++ d ++ a) 12 4 = op :=
  opcode_append BitVec.extractLsb'_append_eq_left a

@[simp] theorem formatM_reg (op : BitVec 4) (d : BitVec 3) (a : BitVec 9) : field (op ++ d ++ a) 9 3 = d :=
  (BitVec.extractLsb'_append_eq_of_le (by decide)).trans BitVec.extractLsb'_append_eq_right

@[simp] theorem formatM_addr (op : BitVec 4) (d : BitVec 3) (a : BitVec 9) : field (op ++ d ++ a) 0 9 = a :=
  BitVec.extractLsb'_append_eq_right

/-- Adjacent fields, written side by side, are one field. -/
theorem field_append_field (w : Word) (lo m n : Nat) : field w (lo + n) m ++ field w lo n = field w lo (m + n) :=
  BitVec.extractLsb'_append_extractLsb'_eq_extractLsb' rfl

/-- Opcode 0000 is what the words up to 0x0FFF have (R54). -/
theorem opcode_zero_iff (w : Word) : field w 12 4 = 0x0#4 ↔ w.toNat ≤ 0x0FFF := by
  have hlt := w.isLt
  rw [← BitVec.toNat_inj, field, BitVec.extractLsb'_toNat, Nat.shiftRight_eq_div_pow, BitVec.toNat_ofNat]
  omega

/-! ### What a successful decoder read -/

theorem ok_of_map {α : Type} {f : α → Instr} {e : Except DecodeError α} {i : Instr} (h : e.map f = .ok i) :
    ∃ a, e = .ok a ∧ f a = i := by
  cases e with
  | error => cases h
  | ok a => exact ⟨a, rfl, Except.ok.inj h⟩

section
variable {w : Word} {i : Instr}

theorem decodeFormatA_ok {f : BitVec 3 → Rhs → Instr} (h : decodeFormatA f w = .ok i) :
    ∃ r, i = f (field w 9 3) r := by
  obtain ⟨r, -, hr⟩ := ok_of_map h
  exact ⟨r, hr.symm⟩

theorem decodeTarget_mem {a : BitVec 10} (h : decodeTarget w = .ok (.mem a)) :
    field w 10 1 = 0#1 ∧ field w 0 10 = a := by
  unfold decodeTarget at h
  split at h
  case isTrue hmem => exact ⟨hmem, by simpa using h⟩
  case isFalse => split at h <;> cases h

theorem decodeBcc_ok {p q : Branch} (h : decodeBcc p q w = .ok i) :
    ∃ t, decodeTarget w = .ok t ∧ i = .bcc (if field w 11 1 = 0#1 then p else q) t := by
  obtain ⟨t, ht, hi⟩ := ok_of_map h
  exact ⟨t, ht, hi.symm⟩

theorem decodeJmp_ok (h : decodeJmp w = .ok i) : ∃ t, i = .jmp t := by
  unfold decodeJmp at h
  split at h
  · obtain ⟨t, -, hi⟩ := ok_of_map h
    exact ⟨t, hi.symm⟩
  · cases h

theorem decodeStore_ok (h : decodeStore w = .ok i) :
    i = .stMem (field w 3 8) (field w 0 3) ∨ i = .stRegi (field w 7 4) (field w 0 3) := by
  unfold decodeStore at h
  split at h
  · cases h; exact .inl rfl
  · split at h <;> cases h; exact .inr rfl

theorem decodePop_ok (h : decodePop w = .ok i) : i = .popMem (field w 0 11) ∨ i = .popReg (field w 0 4) := by
  unfold decodePop at h
  split at h
  · cases h; exact .inl rfl
  · split at h <;> cases h; exact .inr rfl

theorem decodePush_ok (h : decodePush w = .ok i) : i = .pushImm (field w 0 8) ∨ i = .pushReg (field w 0 4) := by
  unfold decodePush at h
  split at h
  · cases h
  · split at h
    · cases h; exact .inl rfl
    · split at h <;> cases h; exact .inr rfl

theorem decodeInt_ok (h : decodeInt w = .ok i) : i = .int (field w 0 8) := by
  unfold decodeInt at h
  split at h <;> cases h
  rfl

end

/-! ### The opcode of an instruction's word -/

/-- The opcode column of R53's table. -/
def Branch.opcode : Branch → BitVec 4
  | .bo | .bno => 0x2#4
  | .bl | .bg => 0x5#4
  | .bz | .bnz => 0x9#4

theorem opcode_add (d : BitVec 3) (r : Rhs) : field (encode (.add d r)) 12 4 = 0x1#4 := by
  cases r <;> simp [Instr.add, encode]

theorem opcode_div (d : BitVec 3) (r : Rhs) : field (encode (.div d r)) 12 4 = 0x4#4 := by
  cases r <;> simp [Instr.div, encode]

theorem opcode_cmp (d : BitVec 3) (r : Rhs) : field (encode (.cmp d r)) 12 4 = 0xA#4 := by
  cases r <;> simp [Instr.cmp, encode]

theorem opcode_nand (d : BitVec 3) (r : Rhs) : field (encode (.nand d r)) 12 4 = 0xB#4 := by
  cases r <;> simp [Instr.nand, encode]

theorem opcode_mov (d : BitVec 3) (r : Rhs) : field (encode (.mov d r)) 12 4 = 0xE#4 := by
  cases r <;> simp [Instr.mov, encode]

theorem opcode_jmp (t : Target) : field (encode (.jmp t)) 12 4 = 0x8#4 := by
  cases t <;> simp [Instr.jmp, encode]

theorem opcode_bcc (b : Branch) (t : Target) : field (encode (.bcc b t)) 12 4 = b.opcode := by
  cases b <;> cases t <;> simp [Instr.bcc, encode, Branch.opcode]

section
variable {w : Word} {i : Instr}

theorem opcode_of_decodeFormatA {f : BitVec 3 → Rhs → Instr} {op : BitVec 4}
    (hf : ∀ d r, field (encode (f d r)) 12 4 = op) (h : decodeFormatA f w = .ok i) : field (encode i) 12 4 = op := by
  obtain ⟨r, rfl⟩ := decodeFormatA_ok h
  exact hf _ r

theorem opcode_of_decodeBcc {p q : Branch} (h : decodeBcc p q w = .ok i) (hpq : p.opcode = q.opcode) :
    field (encode i) 12 4 = p.opcode := by
  obtain ⟨t, -, rfl⟩ := decodeBcc_ok h
  rw [opcode_bcc]
  split
  · rfl
  · exact hpq.symm

theorem opcode_of_decodeJmp (h : decodeJmp w = .ok i) : field (encode i) 12 4 = 0x8#4 := by
  obtain ⟨t, rfl⟩ := decodeJmp_ok h
  exact opcode_jmp t

theorem opcode_of_decodeStore (h : decodeStore w = .ok i) : field (encode i) 12 4 = 0x7#4 := by
  obtain rfl | rfl := decodeStore_ok h
  · exact opcode_append (opcode_append BitVec.extractLsb'_append_eq_left _) _
  · exact opcode_append (opcode_append (opcode_append BitVec.extractLsb'_append_eq_left _) _) _

theorem opcode_of_decodePop (h : decodePop w = .ok i) : field (encode i) 12 4 = 0x3#4 := by
  obtain rfl | rfl := decodePop_ok h
  · exact opcode_append BitVec.extractLsb'_append_eq_left _
  · exact opcode_append BitVec.extractLsb'_append_eq_left _

theorem opcode_of_decodePush (h : decodePush w = .ok i) : field (encode i) 12 4 = 0xC#4 := by
  obtain rfl | rfl := decodePush_ok h
  · exact opcode_append (opcode_append BitVec.extractLsb'_append_eq_left _) _
  · exact opcode_append (opcode_append BitVec.extractLsb'_append_eq_left _) _

theorem opcode_of_decodeInt (h : decodeInt w = .ok i) : field (encode i) 12 4 = 0xD#4 := by
  obtain rfl := decodeInt_ok h
  exact opcode_append (opcode_append BitVec.extractLsb'_append_eq_left _) _

/-- The opcode of a decoded word is that of its instruction: each instruction stands under one opcode. -/
theorem opcode_of_decode (h : decode w = .ok i) : field (encode i) 12 4 = field w 12 4 := by
  have same {op : BitVec 4} (hi : field (encode i) 12 4 = op) (hw : (field w 12 4).toNat = op.toNat) :
      field (encode i) 12 4 = field w 12 4 := hi.trans (BitVec.eq_of_toNat_eq hw).symm
  unfold decode at h
  split at h
  case h_1 hop => cases h; exact same (field_op_append _ _) hop
  case h_2 hop => exact same (opcode_of_decodeFormatA opcode_add h) hop
  case h_3 hop => exact same (opcode_of_decodeBcc h rfl) hop
  case h_4 hop => exact same (opcode_of_decodePop h) hop
  case h_5 hop => exact same (opcode_of_decodeFormatA opcode_div h) hop
  case h_6 hop =>
    split at h
    · cases h; exact same (op := 0x5#4) rfl hop
    · exact same (opcode_of_decodeBcc h rfl) hop
  case h_7 hop => cases h; exact same (formatM_op _ _ _) hop
  case h_8 hop => exact same (opcode_of_decodeStore h) hop
  case h_9 hop => exact same (opcode_of_decodeJmp h) hop
  case h_10 hop => exact same (opcode_of_decodeBcc h rfl) hop
  case h_11 hop => exact same (opcode_of_decodeFormatA opcode_cmp h) hop
  case h_12 hop => exact same (opcode_of_decodeFormatA opcode_nand h) hop
  case h_13 hop => exact same (opcode_of_decodePush h) hop
  case h_14 hop => exact same (opcode_of_decodeInt h) hop
  case h_15 hop => exact same (opcode_of_decodeFormatA opcode_mov h) hop
  case h_16 =>
    cases h
    refine same (formatM_op _ _ _) ?_
    have hlt := (field w 12 4).isLt
    change (field w 12 4).toNat = 15
    simp only [imp_false] at *
    omega

/-! ### HLT, RET and BL -/

/-- HLT is what opcode 0000 decodes to, with the low bits it ignores. -/
theorem decode_eq_hlt_iff {x : BitVec 12} : decode w = .ok (.hlt x) ↔ field w 12 4 = 0x0#4 ∧ field w 0 12 = x := by
  constructor
  · intro h
    have hop : field w 12 4 = 0x0#4 := (opcode_of_decode h).symm.trans (field_op_append _ _)
    exact ⟨hop, by simpa [decode_of_opcode_0 hop] using h⟩
  · rintro ⟨hop, rfl⟩
    exact decode_of_opcode_0 hop

theorem decode_eq_ret_iff : decode w = .ok .ret ↔ w = 0x5000#16 := by
  constructor
  · intro h
    rw [decode_of_opcode_5 (opcode_of_decode h).symm] at h
    by_contra hw
    rw [if_neg hw] at h
    obtain ⟨t, -, hret⟩ := decodeBcc_ok h
    split at hret <;> cases t <;> cases hret
  · rintro rfl
    rfl

/-- The J-mem word of BL (R53), with the one address RET's word takes away (R54). -/
theorem encode_of_decode_blMem {a : BitVec 10} (h : decode w = .ok (.blMem a)) :
    encode (.blMem a) = w ∧ w ≠ 0x5000#16 := by
  have hop : field w 12 4 = 0x5#4 := (opcode_of_decode h).symm.trans (encodeJumpMem_op _ _ _)
  have hw : w ≠ 0x5000#16 := fun hw => by
    rw [decode_eq_ret_iff.mpr hw] at h
    cases h
  rw [decode_of_opcode_5 hop, if_neg hw] at h
  obtain ⟨t, ht, hbl⟩ := decodeBcc_ok h
  split at hbl
  case isFalse => cases t <;> cases hbl
  case isTrue hiv =>
    cases t with
    | reg n => cases hbl
    | mem b =>
      cases hbl
      obtain ⟨hform, haddr⟩ := decodeTarget_mem ht
      refine ⟨?_, hw⟩
      calc encode (.blMem a) = field w 12 4 ++ field w 11 1 ++ field w 10 1 ++ field w 0 10 := by
            rw [hop, hiv, hform, haddr]; rfl
        _ = field w 0 16 := by
            rw [field_append_field w 11 4 1, field_append_field w 10 5 1, field_append_field w 0 6 10]
        _ = w := BitVec.extractLsb'_eq_self

end

/-- Settles O2: HLT and RET by the words that decode to them, BL by the one word its form at 0 would have. -/
theorem haltAndReturnEncodings : Obligations.HaltAndReturnEncodings := by
  refine ⟨fun x => decode_eq_hlt_iff.mpr ⟨field_op_append _ _, field_low_append _ _⟩, fun w => ?_,
    fun w => decode_eq_ret_iff, rfl, ?_⟩
  · simp only [decode_eq_hlt_iff, exists_and_left, exists_eq', and_true, opcode_zero_iff]
  · rintro w a h rfl
    obtain ⟨hbl, hne⟩ := encode_of_decode_blMem h
    exact hne hbl.symm

/-- Settles O3: the words of format M, by their fields. -/
theorem loadFormatsDecode : Obligations.LoadFormatsDecode := by
  intro d a
  rw [decode_of_opcode_6 (formatM_op _ d a), decode_of_opcode_f (formatM_op _ d a)]
  simp only [formatM_reg, formatM_addr, and_self]

end Sys2Proof
end

section
/-!
PROOFS. O48, O49 (45_int.md R103, R104): INT 70 and INT 71 write push_ret alone, and without it a taken branch is a
jump. Both codes are one task, `setPushRet`; the branch reads push_ret in `takeBranch` only.
-/

namespace Sys2Proof

theorem decode_encode_int (k : BitVec 8) : decode (encode (.int k)) = .ok (.int k) := by
  have hop : field (encode (.int k)) 12 4 = 0xD#4 := Laws.EncodedOpcode.int k
  have hfixed : field (encode (.int k)) 8 4 = 0b0001#4 := BitVec.extractLsb'_append_eq_of_le (Nat.le_refl 8)
  have hcode : field (encode (.int k)) 0 8 = k := BitVec.extractLsb'_append_eq_right
  rw [decode_of_opcode_d hop, decodeInt, if_pos hfixed, hcode]

end Sys2Proof

namespace Sys2Proof.Machine

/-- A code whose task is to write push_ret writes it and changes nothing else. -/
theorem exec_int_of_setPushRet {k : BitVec 8} {b : Bool} (hk : intTask (sext8 k).toInt = .setPushRet b) (s : State) :
    exec (.int k) s = .next { s with pushRet := b } := by
  rw [exec_int, execInt, hk]
  rfl

theorem takeBranch_without_push {s : State} (hpush : s.pushRet = false) (p : Place) :
    takeBranch p s = complete s (setpc s (placeAddr s p)) := by
  simp [takeBranch, hpush]

/-- With push_ret clear a taken branch is a jump, also where its register field names no register. -/
theorem execBcc_eq_execJmp {s : State} {b : Branch} (htaken : taken s b) (hpush : s.pushRet = false) (tg : Target) :
    execBcc b tg s = execJmp tg s := by
  unfold execBcc execJmp
  cases placeOf tg with
  | error e => rfl
  | ok p =>
    calc (if condition s b then takeBranch p s else complete s (.ok s))
        = takeBranch p s := if_pos (taken_iff_condition.mp htaken)
      _ = complete s (setpc s (placeAddr s p)) := takeBranch_without_push hpush p

/-- Settles O48: the word is that of INT 70, whose task sets push_ret. -/
theorem int70SetsPushRet : Obligations.Int70SetsPushRet :=
  ⟨decode_encode_int 70#8, exec_int_of_setPushRet rfl⟩

/-- Settles O49: the word is that of INT 71, whose task clears push_ret, and a taken branch that does not push is JMP. -/
theorem int71ClearsPushRet : Obligations.Int71ClearsPushRet := by
  refine ⟨decode_encode_int 71#8, exec_int_of_setPushRet rfl, fun b tg s hpush htaken => ?_⟩
  rw [exec_bcc, exec_jmp, execBcc_eq_execJmp htaken hpush]

end Sys2Proof.Machine
end

section
/-!
PROOFS. O4, O5, O6, O1 (30_encoding.md sections 2 and 4): the decoder and the encoder are inverse to each other, and
the words without an instruction. Formats A and J are treated once for all the mnemonics that share them; a decoded
word is put together again from its fields.
-/

namespace Sys2Proof

/-! ### The 45 forms by mnemonic -/

/-- Case analysis by mnemonic: the right side of a format A instruction and the target of a jump stay whole. -/
theorem Instr.mnemonicCases {P : Instr → Prop} (hlt : ∀ x, P (.hlt x)) (add : ∀ d r, P (.add d r))
    (div : ∀ d r, P (.div d r)) (cmp : ∀ d r, P (.cmp d r)) (nand : ∀ d r, P (.nand d r))
    (mov : ∀ d r, P (.mov d r)) (ld : ∀ d a, P (.ld d a)) (lea : ∀ d a, P (.lea d a))
    (stMem : ∀ a r, P (.stMem a r)) (stRegi : ∀ n r, P (.stRegi n r)) (popReg : ∀ n, P (.popReg n))
    (popMem : ∀ a, P (.popMem a)) (pushImm : ∀ k, P (.pushImm k)) (pushReg : ∀ n, P (.pushReg n))
    (int : ∀ k, P (.int k)) (jmp : ∀ tg, P (.jmp tg)) (ret : P .ret) (bcc : ∀ b tg, P (.bcc b tg)) :
    ∀ i, P i
  | .hlt x => hlt x
  | .addImm d k => add d (.imm k)
  | .addReg d n => add d (.reg n)
  | .addRegi d n => add d (.regi n)
  | .addMemi d a => add d (.memi a)
  | .divImm d k => div d (.imm k)
  | .divReg d n => div d (.reg n)
  | .divRegi d n => div d (.regi n)
  | .divMemi d a => div d (.memi a)
  | .cmpImm d k => cmp d (.imm k)
  | .cmpReg d n => cmp d (.reg n)
  | .cmpRegi d n => cmp d (.regi n)
  | .cmpMemi d a => cmp d (.memi a)
  | .nandImm d k => nand d (.imm k)
  | .nandReg d n => nand d (.reg n)
  | .nandRegi d n => nand d (.regi n)
  | .nandMemi d a => nand d (.memi a)
  | .movImm d k => mov d (.imm k)
  | .movReg d n => mov d (.reg n)
  | .movRegi d n => mov d (.regi n)
  | .movMemi d a => mov d (.memi a)
  | .ld d a => ld d a
  | .lea d a => lea d a
  | .stMem a r => stMem a r
  | .stRegi n r => stRegi n r
  | .popReg n => popReg n
  | .popMem a => popMem a
  | .pushImm k => pushImm k
  | .pushReg n => pushReg n
  | .int k => int k
  | .jmpMem a => jmp (.mem a)
  | .jmpReg n => jmp (.reg n)
  | .ret => ret
  | .boMem a => bcc .bo (.mem a)
  | .boReg n => bcc .bo (.reg n)
  | .bnoMem a => bcc .bno (.mem a)
  | .bnoReg n => bcc .bno (.reg n)
  | .blMem a => bcc .bl (.mem a)
  | .blReg n => bcc .bl (.reg n)
  | .bgMem a => bcc .bg (.mem a)
  | .bgReg n => bcc .bg (.reg n)
  | .bzMem a => bcc .bz (.mem a)
  | .bzReg n => bcc .bz (.reg n)
  | .bnzMem a => bcc .bnz (.mem a)
  | .bnzReg n => bcc .bnz (.reg n)

/-! ### Formats A and J, their rows together -/

/-- The word of a format A instruction (R47). -/
def encodeFormatA (op : BitVec 4) (d : BitVec 3) : Rhs → Word
  | .imm i => encodeImm op d i
  | .reg n => encodeReg op d n
  | .regi n => encodeRegi op d n
  | .memi a => encodeMemi op d a

/-- The word of a format J instruction (R53). -/
def encodeFormatJ (op : BitVec 4) (iv : BitVec 1) : Target → Word
  | .mem a => encodeJumpMem op iv a
  | .reg n => encodeJumpReg op iv n

/-- Bit iv of a branch: set for the inverted ones (R53). -/
def Branch.iv : Branch → BitVec 1
  | .bo | .bl | .bz => 0#1
  | .bno | .bg | .bnz => 1#1

theorem encode_add (d : BitVec 3) (r : Rhs) : encode (.add d r) = encodeFormatA 0x1#4 d r := by cases r <;> rfl
theorem encode_div (d : BitVec 3) (r : Rhs) : encode (.div d r) = encodeFormatA 0x4#4 d r := by cases r <;> rfl
theorem encode_cmp (d : BitVec 3) (r : Rhs) : encode (.cmp d r) = encodeFormatA 0xA#4 d r := by cases r <;> rfl
theorem encode_nand (d : BitVec 3) (r : Rhs) : encode (.nand d r) = encodeFormatA 0xB#4 d r := by cases r <;> rfl
theorem encode_mov (d : BitVec 3) (r : Rhs) : encode (.mov d r) = encodeFormatA 0xE#4 d r := by cases r <;> rfl
theorem encode_jmp (tg : Target) : encode (.jmp tg) = encodeFormatJ 0x8#4 0#1 tg := by cases tg <;> rfl
theorem encode_bcc (b : Branch) (tg : Target) : encode (.bcc b tg) = encodeFormatJ b.opcode b.iv tg := by
  cases b <;> cases tg <;> rfl

@[simp] theorem encodeFormatA_op (op : BitVec 4) (d : BitVec 3) (r : Rhs) :
    field (encodeFormatA op d r) 12 4 = op := by
  cases r <;> simp [encodeFormatA]

@[simp] theorem encodeFormatJ_op (op : BitVec 4) (iv : BitVec 1) (tg : Target) :
    field (encodeFormatJ op iv tg) 12 4 = op := by
  cases tg <;> simp [encodeFormatJ]

@[simp] theorem encodeFormatJ_iv (op : BitVec 4) (iv : BitVec 1) (tg : Target) :
    field (encodeFormatJ op iv tg) 11 1 = iv := by
  cases tg <;> simp [encodeFormatJ]

theorem decodeFormatA_encodeFormatA (f : BitVec 3 → Rhs → Instr) (op : BitVec 4) (d : BitVec 3) (r : Rhs) :
    decodeFormatA f (encodeFormatA op d r) = .ok (f d r) := by
  cases r <;> simp [decodeFormatA, decodeRhs, encodeFormatA, Except.map]

theorem decodeTarget_encodeFormatJ (op : BitVec 4) (iv : BitVec 1) (tg : Target) :
    decodeTarget (encodeFormatJ op iv tg) = .ok tg := by
  cases tg <;> simp [decodeTarget, encodeFormatJ]

/-! ### Decoding what was encoded -/

/-- A branch stands in its pair at the place its bit iv says. -/
theorem decodeBcc_encodeFormatJ (b : Branch) (op : BitVec 4) (tg : Target) {p q : Branch}
    (hb : (if b.iv = 0#1 then p else q) = b) : decodeBcc p q (encodeFormatJ op b.iv tg) = .ok (.bcc b tg) := by
  rw [decodeBcc, decodeTarget_encodeFormatJ, encodeFormatJ_iv, hb]
  rfl

/-- RET's word stands outside BL's rows, except for BL to address 0 (R54). -/
theorem encodeFormatJ_ne_ret {b : Branch} {tg : Target} (h : (Instr.bcc b tg).wellFormed = true) :
    encodeFormatJ b.opcode b.iv tg ≠ 0x5000#16 := by
  intro hw
  have hop : field (encodeFormatJ b.opcode b.iv tg) 12 4 = b.opcode := encodeFormatJ_op _ _ _
  have hiv : field (encodeFormatJ b.opcode b.iv tg) 11 1 = b.iv := encodeFormatJ_iv _ _ _
  have htg := decodeTarget_encodeFormatJ b.opcode b.iv tg
  rw [hw] at hop hiv htg
  obtain rfl : tg = .mem 0#10 := (Except.ok.inj htg).symm
  cases b with
  | bl => simp [Instr.bcc, Instr.wellFormed] at h
  | bg => simp [Branch.iv, field] at hiv
  | bo | bno | bz | bnz => simp [Branch.opcode, field] at hop

theorem decode_encode_bcc {b : Branch} {tg : Target} (h : (Instr.bcc b tg).wellFormed = true) :
    decode (encode (.bcc b tg)) = .ok (.bcc b tg) := by
  have hret := encodeFormatJ_ne_ret h
  have hop := encodeFormatJ_op b.opcode b.iv tg
  have hbcc := @decodeBcc_encodeFormatJ b b.opcode tg
  rw [encode_bcc]
  cases b with
  | bo | bno => rw [decode_of_opcode_2 hop]; exact hbcc rfl
  | bl | bg => rw [decode_of_opcode_5 hop, if_neg hret]; exact hbcc rfl
  | bz | bnz => rw [decode_of_opcode_9 hop]; exact hbcc rfl

theorem decode_encode_jmp (tg : Target) : decode (encode (.jmp tg)) = .ok (.jmp tg) := by
  rw [encode_jmp, decode_of_opcode_8 (encodeFormatJ_op _ _ _), decodeJmp, encodeFormatJ_iv,
    decodeTarget_encodeFormatJ]
  rfl

theorem decode_encode_stMem (a : BitVec 8) (r : BitVec 3) : decode (encode (.stMem a r)) = .ok (.stMem a r) := by
  have hform : field (encode (.stMem a r)) 11 1 = 0#1 :=
    (BitVec.extractLsb'_append_eq_of_le (by decide)).trans <|
      (BitVec.extractLsb'_append_eq_of_le (by decide)).trans BitVec.extractLsb'_append_eq_right
  have haddr : field (encode (.stMem a r)) 3 8 = a :=
    (BitVec.extractLsb'_append_eq_of_le (by decide)).trans BitVec.extractLsb'_append_eq_right
  have hsrc : field (encode (.stMem a r)) 0 3 = r := BitVec.extractLsb'_append_eq_right
  rw [decode_of_opcode_7 (Laws.EncodedOpcode.stMem a r), decodeStore, if_pos hform, haddr, hsrc]

theorem decode_encode_stRegi (n : BitVec 4) (r : BitVec 3) : decode (encode (.stRegi n r)) = .ok (.stRegi n r) := by
  have hform : field (encode (.stRegi n r)) 11 1 = 1#1 :=
    (BitVec.extractLsb'_append_eq_of_le (by decide)).trans <|
      (BitVec.extractLsb'_append_eq_of_le (by decide)).trans <|
        (BitVec.extractLsb'_append_eq_of_le (by decide)).trans BitVec.extractLsb'_append_eq_right
  have hnum : field (encode (.stRegi n r)) 7 4 = n :=
    (BitVec.extractLsb'_append_eq_of_le (by decide)).trans <|
      (BitVec.extractLsb'_append_eq_of_le (by decide)).trans BitVec.extractLsb'_append_eq_right
  have hzeros : field (encode (.stRegi n r)) 3 4 = 0#4 :=
    (BitVec.extractLsb'_append_eq_of_le (by decide)).trans BitVec.extractLsb'_append_eq_right
  have hsrc : field (encode (.stRegi n r)) 0 3 = r := BitVec.extractLsb'_append_eq_right
  rw [decode_of_opcode_7 (Laws.EncodedOpcode.stRegi n r), decodeStore, hform, if_neg (by decide), if_pos hzeros,
    hnum, hsrc]

theorem decode_encode_popReg (n : BitVec 4) : decode (encode (.popReg n)) = .ok (.popReg n) := by
  have hform : field (encode (.popReg n)) 11 1 = 0#1 := BitVec.extractLsb'_append_eq_of_le (by decide)
  have hzeros : field (encode (.popReg n)) 4 7 = 0#7 := BitVec.extractLsb'_append_eq_of_le (by decide)
  have hnum : field (encode (.popReg n)) 0 4 = n := BitVec.extractLsb'_append_eq_right
  rw [decode_of_opcode_3 (Laws.EncodedOpcode.popReg n), decodePop, hform, if_neg (by decide), if_pos hzeros, hnum]

theorem decode_encode_popMem (a : BitVec 11) : decode (encode (.popMem a)) = .ok (.popMem a) := by
  have hform : field (encode (.popMem a)) 11 1 = 1#1 :=
    (BitVec.extractLsb'_append_eq_of_le (by decide)).trans BitVec.extractLsb'_append_eq_right
  have haddr : field (encode (.popMem a)) 0 11 = a := BitVec.extractLsb'_append_eq_right
  rw [decode_of_opcode_3 (Laws.EncodedOpcode.popMem a), decodePop, if_pos hform, haddr]

theorem decode_encode_pushImm (k : BitVec 8) : decode (encode (.pushImm k)) = .ok (.pushImm k) := by
  have hzeros : field (encode (.pushImm k)) 9 3 = 0#3 :=
    (BitVec.extractLsb'_append_eq_of_le (by decide)).trans <|
      (BitVec.extractLsb'_append_eq_of_le (by decide)).trans BitVec.extractLsb'_append_eq_right
  have hform : field (encode (.pushImm k)) 8 1 = 1#1 :=
    (BitVec.extractLsb'_append_eq_of_le (by decide)).trans BitVec.extractLsb'_append_eq_right
  have himm : field (encode (.pushImm k)) 0 8 = k := BitVec.extractLsb'_append_eq_right
  rw [decode_of_opcode_c (Laws.EncodedOpcode.pushImm k), decodePush, if_neg (not_not_intro hzeros), if_pos hform, himm]

theorem decode_encode_pushReg (n : BitVec 4) : decode (encode (.pushReg n)) = .ok (.pushReg n) := by
  have hzeros : field (encode (.pushReg n)) 9 3 = 0#3 := BitVec.extractLsb'_append_eq_of_le (by decide)
  have hform : field (encode (.pushReg n)) 8 1 = 0#1 := BitVec.extractLsb'_append_eq_of_le (by decide)
  have hlow : field (encode (.pushReg n)) 4 4 = 0#4 := BitVec.extractLsb'_append_eq_of_le (by decide)
  have hnum : field (encode (.pushReg n)) 0 4 = n := BitVec.extractLsb'_append_eq_right
  rw [decode_of_opcode_c (Laws.EncodedOpcode.pushReg n), decodePush, if_neg (not_not_intro hzeros), hform,
    if_neg (by decide), if_pos hlow, hnum]

/-- Settles O4, by mnemonic. -/
theorem decodeOfEncode : Obligations.DecodeOfEncode := by
  intro i hwf
  induction i using Instr.mnemonicCases with
  | hlt x => exact decode_eq_hlt_iff.mpr ⟨field_op_append _ _, field_low_append _ _⟩
  | add d r => rw [encode_add, decode_of_opcode_1 (encodeFormatA_op _ _ _), decodeFormatA_encodeFormatA]
  | div d r => rw [encode_div, decode_of_opcode_4 (encodeFormatA_op _ _ _), decodeFormatA_encodeFormatA]
  | cmp d r => rw [encode_cmp, decode_of_opcode_a (encodeFormatA_op _ _ _), decodeFormatA_encodeFormatA]
  | nand d r => rw [encode_nand, decode_of_opcode_b (encodeFormatA_op _ _ _), decodeFormatA_encodeFormatA]
  | mov d r => rw [encode_mov, decode_of_opcode_e (encodeFormatA_op _ _ _), decodeFormatA_encodeFormatA]
  | ld d a => exact (loadFormatsDecode d a).1
  | lea d a => exact (loadFormatsDecode d a).2
  | stMem a r => exact decode_encode_stMem a r
  | stRegi n r => exact decode_encode_stRegi n r
  | popReg n => exact decode_encode_popReg n
  | popMem a => exact decode_encode_popMem a
  | pushImm k => exact decode_encode_pushImm k
  | pushReg n => exact decode_encode_pushReg n
  | int k => exact decode_encode_int k
  | jmp tg => exact decode_encode_jmp tg
  | ret => rfl
  | bcc b tg => exact decode_encode_bcc hwf

/-! ### Encoding what was decoded -/

theorem eq_one_of_ne_zero {b : BitVec 1} (h : b ≠ 0#1) : b = 1#1 := BitVec.eq_zero_or_eq_one b |>.resolve_left h

theorem eq_zero_of_ne_one {b : BitVec 1} (h : b ≠ 1#1) : b = 0#1 := BitVec.eq_zero_or_eq_one b |>.resolve_right h

section
variable {w : Word} {i : Instr}

/-- A word of format A is its opcode, its left side and the right side it decodes to. -/
theorem encodeFormatA_of_decodeRhs {r : Rhs} (h : decodeRhs w = .ok r) :
    encodeFormatA (field w 12 4) (field w 9 3) r = w := by
  unfold decodeRhs at h
  split at h
  case isTrue h8 =>
    cases h
    calc encodeFormatA (field w 12 4) (field w 9 3) (.imm (field w 0 8))
        = field w 12 4 ++ field w 9 3 ++ field w 8 1 ++ field w 0 8 := by rw [h8]; rfl
      _ = field w 0 16 := by
          rw [field_append_field w 9 4 3, field_append_field w 8 7 1, field_append_field w 0 8 8]
      _ = w := BitVec.extractLsb'_eq_self
  case isFalse h8 =>
  have h8 := eq_zero_of_ne_one h8
  split at h
  case isTrue h7 =>
    cases h
    have h87 : field w 7 2 = 0b01#2 := by rw [← field_append_field w 7 1 1, h8, h7]; rfl
    calc encodeFormatA (field w 12 4) (field w 9 3) (.memi (field w 0 7))
        = field w 12 4 ++ field w 9 3 ++ field w 7 2 ++ field w 0 7 := by rw [h87]; rfl
      _ = field w 0 16 := by
          rw [field_append_field w 9 4 3, field_append_field w 7 7 2, field_append_field w 0 9 7]
      _ = w := BitVec.extractLsb'_eq_self
  case isFalse h7 =>
  have h7 := eq_zero_of_ne_one h7
  have h87 : field w 7 2 = 0b00#2 := by rw [← field_append_field w 7 1 1, h8, h7]; rfl
  have join (k : BitVec 5) (hk : field w 4 5 = k) :
      field w 12 4 ++ field w 9 3 ++ k ++ field w 0 4 = w := by
    rw [← hk, field_append_field w 9 4 3, field_append_field w 4 7 5, field_append_field w 0 12 4]
    exact BitVec.extractLsb'_eq_self
  split at h
  case isTrue h4 =>
    cases h
    exact join 0b00100#5 (by rw [← field_append_field w 4 2 3, h87, h4]; rfl)
  case isFalse =>
    split at h
    case isTrue h4 =>
      cases h
      exact join 0b00000#5 (by rw [← field_append_field w 4 2 3, h87, h4]; rfl)
    case isFalse => cases h

/-- A word of format J is its opcode, its bit iv and the target it decodes to. -/
theorem encodeFormatJ_of_decodeTarget {tg : Target} (h : decodeTarget w = .ok tg) :
    encodeFormatJ (field w 12 4) (field w 11 1) tg = w := by
  unfold decodeTarget at h
  split at h
  case isTrue h10 =>
    cases h
    calc encodeFormatJ (field w 12 4) (field w 11 1) (.mem (field w 0 10))
        = field w 12 4 ++ field w 11 1 ++ field w 10 1 ++ field w 0 10 := by rw [h10]; rfl
      _ = field w 0 16 := by
          rw [field_append_field w 11 4 1, field_append_field w 10 5 1, field_append_field w 0 6 10]
      _ = w := BitVec.extractLsb'_eq_self
  case isFalse h10 =>
    split at h
    case isTrue h4 =>
      cases h
      calc encodeFormatJ (field w 12 4) (field w 11 1) (.reg (field w 0 4))
          = field w 12 4 ++ field w 11 1 ++ field w 10 1 ++ field w 4 6 ++ field w 0 4 := by
            rw [eq_one_of_ne_zero h10, h4]; rfl
        _ = field w 0 16 := by
            rw [field_append_field w 11 4 1, field_append_field w 10 5 1, field_append_field w 4 6 6,
              field_append_field w 0 12 4]
        _ = w := BitVec.extractLsb'_eq_self
    case isFalse => cases h

theorem encode_of_decodeFormatA {f : BitVec 3 → Rhs → Instr} {op : BitVec 4}
    (hf : ∀ d r, encode (f d r) = encodeFormatA op d r) (hop : field w 12 4 = op)
    (h : decodeFormatA f w = .ok i) : encode i = w := by
  obtain ⟨r, hr, rfl⟩ := ok_of_map h
  rw [hf, ← hop, encodeFormatA_of_decodeRhs hr]

theorem encode_of_decodeBcc {p q : Branch} (hp : p.opcode = field w 12 4 ∧ p.iv = 0#1)
    (hq : q.opcode = field w 12 4 ∧ q.iv = 1#1) (h : decodeBcc p q w = .ok i) : encode i = w := by
  obtain ⟨tg, htg, rfl⟩ := decodeBcc_ok h
  rw [encode_bcc]
  split
  case isTrue h11 => rw [hp.1, hp.2, ← h11, encodeFormatJ_of_decodeTarget htg]
  case isFalse h11 => rw [hq.1, hq.2, ← eq_one_of_ne_zero h11, encodeFormatJ_of_decodeTarget htg]

theorem encode_of_decodeJmp (hop : field w 12 4 = 0x8#4) (h : decodeJmp w = .ok i) : encode i = w := by
  unfold decodeJmp at h
  split at h
  case isTrue h11 =>
    obtain ⟨tg, htg, rfl⟩ := ok_of_map h
    rw [encode_jmp, ← hop, ← h11, encodeFormatJ_of_decodeTarget htg]
  case isFalse => cases h

theorem encode_of_decodeStore (hop : field w 12 4 = 0x7#4) (h : decodeStore w = .ok i) : encode i = w := by
  unfold decodeStore at h
  split at h
  case isTrue h11 =>
    cases h
    calc encode (.stMem (field w 3 8) (field w 0 3))
        = field w 12 4 ++ field w 11 1 ++ field w 3 8 ++ field w 0 3 := by rw [hop, h11]; rfl
      _ = field w 0 16 := by
          rw [field_append_field w 11 4 1, field_append_field w 3 5 8, field_append_field w 0 13 3]
      _ = w := BitVec.extractLsb'_eq_self
  case isFalse h11 =>
    split at h
    case isTrue h3 =>
      cases h
      calc encode (.stRegi (field w 7 4) (field w 0 3))
          = field w 12 4 ++ field w 11 1 ++ field w 7 4 ++ field w 3 4 ++ field w 0 3 := by
            rw [hop, eq_one_of_ne_zero h11, h3]; rfl
        _ = field w 0 16 := by
            rw [field_append_field w 11 4 1, field_append_field w 7 5 4, field_append_field w 3 9 4,
              field_append_field w 0 13 3]
        _ = w := BitVec.extractLsb'_eq_self
    case isFalse => cases h

theorem encode_of_decodePop (hop : field w 12 4 = 0x3#4) (h : decodePop w = .ok i) : encode i = w := by
  unfold decodePop at h
  split at h
  case isTrue h11 =>
    cases h
    calc encode (.popMem (field w 0 11)) = field w 12 4 ++ field w 11 1 ++ field w 0 11 := by rw [hop, h11]; rfl
      _ = field w 0 16 := by rw [field_append_field w 11 4 1, field_append_field w 0 5 11]
      _ = w := BitVec.extractLsb'_eq_self
  case isFalse h11 =>
    split at h
    case isTrue h4 =>
      cases h
      have h8 : field w 4 8 = 0#8 := by rw [← field_append_field w 4 1 7, eq_zero_of_ne_one h11, h4]; rfl
      calc encode (.popReg (field w 0 4)) = field w 12 4 ++ field w 4 8 ++ field w 0 4 := by rw [hop, h8]; rfl
        _ = field w 0 16 := by rw [field_append_field w 4 4 8, field_append_field w 0 12 4]
        _ = w := BitVec.extractLsb'_eq_self
    case isFalse => cases h

theorem encode_of_decodePush (hop : field w 12 4 = 0xC#4) (h : decodePush w = .ok i) : encode i = w := by
  unfold decodePush at h
  split at h
  case isTrue => cases h
  case isFalse h9 =>
  have h9 := not_not.mp h9
  split at h
  case isTrue h8 =>
    cases h
    calc encode (.pushImm (field w 0 8))
        = field w 12 4 ++ field w 9 3 ++ field w 8 1 ++ field w 0 8 := by rw [hop, h9, h8]; rfl
      _ = field w 0 16 := by
          rw [field_append_field w 9 4 3, field_append_field w 8 7 1, field_append_field w 0 8 8]
      _ = w := BitVec.extractLsb'_eq_self
  case isFalse h8 =>
    split at h
    case isTrue h4 =>
      cases h
      have h5 : field w 4 5 = 0#5 := by rw [← field_append_field w 4 1 4, eq_zero_of_ne_one h8, h4]; rfl
      calc encode (.pushReg (field w 0 4))
          = field w 12 4 ++ field w 9 3 ++ field w 4 5 ++ field w 0 4 := by rw [hop, h9, h5]; rfl
        _ = field w 0 16 := by
            rw [field_append_field w 9 4 3, field_append_field w 4 7 5, field_append_field w 0 12 4]
        _ = w := BitVec.extractLsb'_eq_self
    case isFalse => cases h

theorem encode_of_decodeInt (hop : field w 12 4 = 0xD#4) (h : decodeInt w = .ok i) : encode i = w := by
  unfold decodeInt at h
  split at h
  case isTrue h8 =>
    cases h
    calc encode (.int (field w 0 8)) = field w 12 4 ++ field w 8 4 ++ field w 0 8 := by rw [hop, h8]; rfl
      _ = field w 0 16 := by rw [field_append_field w 8 4 4, field_append_field w 0 8 8]
      _ = w := BitVec.extractLsb'_eq_self
  case isFalse => cases h

theorem formatM_of_fields (w : Word) : field w 12 4 ++ field w 9 3 ++ field w 0 9 = w := by
  rw [field_append_field w 9 4 3, field_append_field w 0 7 9]
  exact BitVec.extractLsb'_eq_self

end

theorem opcode_cases : ∀ op : BitVec 4, op = 0x0#4 ∨ op = 0x1#4 ∨ op = 0x2#4 ∨ op = 0x3#4 ∨ op = 0x4#4 ∨
    op = 0x5#4 ∨ op = 0x6#4 ∨ op = 0x7#4 ∨ op = 0x8#4 ∨ op = 0x9#4 ∨ op = 0xA#4 ∨ op = 0xB#4 ∨ op = 0xC#4 ∨
    op = 0xD#4 ∨ op = 0xE#4 ∨ op = 0xF#4 := by decide

theorem encode_of_decode {w : Word} {i : Instr} (h : decode w = .ok i) : encode i = w := by
  rcases opcode_cases (field w 12 4) with hop | hop | hop | hop | hop | hop | hop | hop | hop | hop | hop | hop |
    hop | hop | hop | hop
  · rw [decode_of_opcode_0 hop] at h
    cases h
    calc encode (.hlt (field w 0 12)) = field w 12 4 ++ field w 0 12 := by rw [hop]; rfl
      _ = field w 0 16 := field_append_field w 0 4 12
      _ = w := BitVec.extractLsb'_eq_self
  · exact encode_of_decodeFormatA encode_add hop (decode_of_opcode_1 hop ▸ h)
  · exact encode_of_decodeBcc (p := .bo) (q := .bno) ⟨hop.symm, rfl⟩ ⟨hop.symm, rfl⟩ (decode_of_opcode_2 hop ▸ h)
  · exact encode_of_decodePop hop (decode_of_opcode_3 hop ▸ h)
  · exact encode_of_decodeFormatA encode_div hop (decode_of_opcode_4 hop ▸ h)
  · rw [decode_of_opcode_5 hop] at h
    split at h
    case isTrue hw => cases h; exact hw.symm
    case isFalse => exact encode_of_decodeBcc (p := .bl) (q := .bg) ⟨hop.symm, rfl⟩ ⟨hop.symm, rfl⟩ h
  · rw [decode_of_opcode_6 hop] at h
    cases h
    rw [encode_ld, ← hop, formatM_of_fields]
  · exact encode_of_decodeStore hop (decode_of_opcode_7 hop ▸ h)
  · exact encode_of_decodeJmp hop (decode_of_opcode_8 hop ▸ h)
  · exact encode_of_decodeBcc (p := .bz) (q := .bnz) ⟨hop.symm, rfl⟩ ⟨hop.symm, rfl⟩ (decode_of_opcode_9 hop ▸ h)
  · exact encode_of_decodeFormatA encode_cmp hop (decode_of_opcode_a hop ▸ h)
  · exact encode_of_decodeFormatA encode_nand hop (decode_of_opcode_b hop ▸ h)
  · exact encode_of_decodePush hop (decode_of_opcode_c hop ▸ h)
  · exact encode_of_decodeInt hop (decode_of_opcode_d hop ▸ h)
  · exact encode_of_decodeFormatA encode_mov hop (decode_of_opcode_e hop ▸ h)
  · rw [decode_of_opcode_f hop] at h
    cases h
    rw [encode_lea, ← hop, formatM_of_fields]

/-- An ill-formed instruction is BL to address 0, which shares its word with RET. -/
theorem wellFormed_of_encode_ne {i : Instr} (h : encode i = 0x5000#16 → i = .ret) : i.wellFormed = true := by
  cases i with
  | blMem a =>
    have ha : a ≠ 0#10 := by
      rintro rfl
      cases h rfl
    simpa [Instr.wellFormed] using ha
  | _ => rfl

/-- Settles O5: a word is put together from its fields, by opcode. -/
theorem encodeOfDecode : Obligations.EncodeOfDecode := by
  intro w i h
  have hi : encode i = w := encode_of_decode h
  refine ⟨hi, wellFormed_of_encode_ne fun hw => ?_⟩
  rw [← hi, decode_eq_ret_iff.mpr hw] at h
  exact (Except.ok.inj h).symm

/-! ### The words that are no instruction -/

/-- Two fields side by side have the value of their values side by side. -/
theorem field_eq_append_iff {w : Word} {lo m n : Nat} {x : BitVec m} {y : BitVec n} :
    field w lo (m + n) = x ++ y ↔ field w (lo + n) m = x ∧ field w lo n = y := by
  rw [← field_append_field w lo m n]
  constructor
  · intro h
    have hx := congrArg (BitVec.extractLsb' n m) h
    have hy := congrArg (BitVec.extractLsb' 0 n) h
    simp only [BitVec.extractLsb'_append_eq_left, BitVec.extractLsb'_append_eq_right] at hx hy
    exact ⟨hx, hy⟩
  · rintro ⟨rfl, rfl⟩
    rfl

section
variable {w : Word}

theorem map_eq_error_iff {α β : Type} {f : α → β} {r : Except DecodeError α} :
    (∃ e, r.map f = .error e) ↔ ∃ e, r = .error e := by
  cases r <;> simp [Except.map]

theorem decodeFormatA_error_iff {f : BitVec 3 → Rhs → Instr} : (∃ e, decodeFormatA f w = .error e) ↔
    field w 7 2 = 0b00#2 ∧ field w 4 3 ≠ 0b000#3 ∧ field w 4 3 ≠ 0b100#3 := by
  have h87 : field w 7 2 = 0b00#2 ↔ field w 8 1 = 0#1 ∧ field w 7 1 = 0#1 :=
    field_eq_append_iff (m := 1) (n := 1) (x := 0#1) (y := 0#1)
  rw [decodeFormatA, map_eq_error_iff, h87, decodeRhs]
  rcases BitVec.eq_zero_or_eq_one (field w 8 1) with h8 | h8
  · rcases BitVec.eq_zero_or_eq_one (field w 7 1) with h7 | h7
    · by_cases h4 : field w 4 3 = 0b100#3
      · simp [h8, h7, h4]
      · by_cases h0 : field w 4 3 = 0b000#3 <;> simp [h8, h7, h4, h0]
    · simp [h8, h7]
  · simp [h8]

theorem decodeTarget_error_iff : (∃ e, decodeTarget w = .error e) ↔ field w 10 1 = 1#1 ∧ field w 4 6 ≠ 0#6 := by
  unfold decodeTarget
  rcases BitVec.eq_zero_or_eq_one (field w 10 1) with h10 | h10
  · simp [h10]
  · by_cases h4 : field w 4 6 = 0#6 <;> simp [h10, h4]

theorem decodeBcc_error_iff {p q : Branch} :
    (∃ e, decodeBcc p q w = .error e) ↔ field w 10 1 = 1#1 ∧ field w 4 6 ≠ 0#6 := by
  rw [decodeBcc, map_eq_error_iff, decodeTarget_error_iff]

theorem decodeJmp_error_iff : (∃ e, decodeJmp w = .error e) ↔
    field w 11 1 = 1#1 ∨ field w 10 1 = 1#1 ∧ field w 4 6 ≠ 0#6 := by
  unfold decodeJmp
  rcases BitVec.eq_zero_or_eq_one (field w 11 1) with h11 | h11
  · rw [if_pos h11, map_eq_error_iff, decodeTarget_error_iff, h11]
    simp
  · simp [h11]

theorem decodeStore_error_iff : (∃ e, decodeStore w = .error e) ↔ field w 11 1 = 1#1 ∧ field w 3 4 ≠ 0#4 := by
  unfold decodeStore
  rcases BitVec.eq_zero_or_eq_one (field w 11 1) with h11 | h11
  · simp [h11]
  · by_cases h3 : field w 3 4 = 0#4 <;> simp [h11, h3]

theorem decodePop_error_iff : (∃ e, decodePop w = .error e) ↔ field w 11 1 = 0#1 ∧ field w 4 7 ≠ 0#7 := by
  unfold decodePop
  rcases BitVec.eq_zero_or_eq_one (field w 11 1) with h11 | h11
  · by_cases h4 : field w 4 7 = 0#7 <;> simp [h11, h4]
  · simp [h11]

theorem decodePush_error_iff : (∃ e, decodePush w = .error e) ↔
    field w 9 3 ≠ 0#3 ∨ field w 8 1 = 0#1 ∧ field w 4 4 ≠ 0#4 := by
  unfold decodePush
  by_cases h9 : field w 9 3 = 0#3
  · rcases BitVec.eq_zero_or_eq_one (field w 8 1) with h8 | h8
    · by_cases h4 : field w 4 4 = 0#4 <;> simp [h9, h8, h4]
    · simp [h9, h8]
  · simp [h9]

theorem decodeInt_error_iff : (∃ e, decodeInt w = .error e) ↔ field w 8 4 ≠ 0b0001#4 := by
  unfold decodeInt
  by_cases h8 : field w 8 4 = 0b0001#4 <;> simp [h8]

/-- The seven cases of R59 in terms of the opcode and the fields below it. -/
def SevenCases (w : Word) : Prop :=
  (field w 12 4 = 0x8#4 ∧ field w 11 1 = 1#1) ∨
  (field w 12 4 ∈ [0x1#4, 0x4#4, 0xA#4, 0xB#4, 0xE#4] ∧
    field w 7 2 = 0b00#2 ∧ field w 4 3 ≠ 0b000#3 ∧ field w 4 3 ≠ 0b100#3) ∨
  ((field w 12 4 = 0x7#4 ∧ field w 11 1 = 1#1) ∧ field w 3 4 ≠ 0#4) ∨
  ((field w 12 4 = 0x3#4 ∧ field w 11 1 = 0#1) ∧ field w 4 7 ≠ 0#7) ∨
  (field w 12 4 = 0xC#4 ∧ (field w 9 3 ≠ 0#3 ∨ field w 8 1 = 0#1 ∧ field w 4 4 ≠ 0#4)) ∨
  (field w 12 4 = 0xD#4 ∧ field w 8 4 ≠ 0b0001#4) ∨
  (field w 12 4 ∈ [0x2#4, 0x5#4, 0x9#4, 0x8#4] ∧ field w 10 1 = 1#1 ∧ field w 4 6 ≠ 0#6)

theorem decode_error_iff : (∃ e, decode w = .error e) ↔ SevenCases w := by
  unfold SevenCases
  rcases opcode_cases (field w 12 4) with hop | hop | hop | hop | hop | hop | hop | hop | hop | hop | hop | hop |
    hop | hop | hop | hop
  · simp [hop, decode_of_opcode_0 hop]
  · simp [hop, decode_of_opcode_1 hop, decodeFormatA_error_iff]
  · simp [hop, decode_of_opcode_2 hop, decodeBcc_error_iff]
  · simp [hop, decode_of_opcode_3 hop, decodePop_error_iff]
  · simp [hop, decode_of_opcode_4 hop, decodeFormatA_error_iff]
  · by_cases hw : w = 0x5000#16
    · simp [hw, decode_eq_ret_iff.mpr, field]
    · simp [hop, decode_of_opcode_5 hop, hw, decodeBcc_error_iff]
  · simp [hop, decode_of_opcode_6 hop]
  · simp [hop, decode_of_opcode_7 hop, decodeStore_error_iff]
  · simp [hop, decode_of_opcode_8 hop, decodeJmp_error_iff]
  · simp [hop, decode_of_opcode_9 hop, decodeBcc_error_iff]
  · simp [hop, decode_of_opcode_a hop, decodeFormatA_error_iff]
  · simp [hop, decode_of_opcode_b hop, decodeFormatA_error_iff]
  · simp [hop, decode_of_opcode_c hop, decodePush_error_iff]
  · simp [hop, decode_of_opcode_d hop, decodeInt_error_iff]
  · simp [hop, decode_of_opcode_e hop, decodeFormatA_error_iff]
  · simp [hop, decode_of_opcode_f hop]

end

/-- Settles O6: the five leading bits are the opcode and bit 11. -/
theorem illegalWordsAreTheSevenCases : Obligations.IllegalWordsAreTheSevenCases := by
  intro w
  have lead (x : BitVec 4) (y : BitVec 1) : w.extractLsb' 11 5 = x ++ y ↔ field w 12 4 = x ∧ field w 11 1 = y :=
    field_eq_append_iff (lo := 11) (m := 4) (n := 1)
  have ha := lead 0b1000#4 1#1
  have hc := lead 0b0111#4 1#1
  have hd := lead 0b0011#4 0#1
  rw [decode_error_iff]
  exact or_congr ha.symm (or_congr Iff.rfl (or_congr (and_congr hc.symm Iff.rfl)
    (or_congr (and_congr hd.symm Iff.rfl) Iff.rfl)))

/-- Settles O1: each word is computed on. -/
theorem writtenWordsDecode : Obligations.WrittenWordsDecode := by
  unfold Obligations.WrittenWordsDecode
  decide

end Sys2Proof
end

section
/-!
PROOFS. O13, and what the statements after it rest on: everything an instruction can do, said once. `Raises` lists the
ways to an error, `Ends` the states an instruction can leave. `exec_iff_ends` ties them to `exec`: each rule is one
evaluation of `exec`, and one rule applies in every state. The statements about single instructions use a rule each; the
statements about the whole machine go through the rules one by one.
-/

namespace Sys2Proof.Machine

/-! ### Reads, writes and jumps by the word that holds the address -/

section
variable {s : State} {w v : Word}

theorem memRead_field {n : Nat} {a : BitVec n} (hn : n ≤ 16) (h : s.mem.read a.toNat = some w) :
    memRead s (a.toNat : Int) = .ok w :=
  memRead_ok.mpr ⟨oob_field hn a, h⟩

theorem memRead_field_null {n : Nat} {a : BitVec n} (h : s.mem.read a.toNat = none) :
    memRead s (a.toNat : Int) = .error .segfault :=
  memRead_error.mpr ⟨rfl, .inr h⟩

theorem memRead_toaddr (hm : w.msb = false) (h : s.mem.read w.toNat = some v) : memRead s (toaddr w) = .ok v :=
  memRead_ok.mpr ⟨by simp [hm], by simpa [toaddr_eq_toNat hm] using h⟩

theorem memRead_toaddr_error (h : w.msb = true ∨ s.mem.read w.toNat = none) :
    memRead s (toaddr w) = .error .segfault := by
  refine memRead_error.mpr ⟨rfl, ?_⟩
  cases hm : w.msb with
  | true => exact .inl (by simp [hm])
  | false => exact .inr (by simpa [toaddr_eq_toNat hm, hm] using h)

theorem memWrite_field {n : Nat} (hn : n ≤ 16) (a : BitVec n) :
    memWrite s (a.toNat : Int) v = .ok (s.setMem (s.mem.write a.toNat v)) :=
  memWrite_ok.mpr ⟨oob_field hn a, rfl⟩

theorem memWrite_toaddr (hm : w.msb = false) : memWrite s (toaddr w) v = .ok (s.setMem (s.mem.write w.toNat v)) :=
  memWrite_ok.mpr ⟨by simp [hm], by simp [toaddr_eq_toNat hm]⟩

theorem setpc_toaddr (hm : w.msb = false) : setpc s (toaddr w) = .ok (s.setPc w) :=
  setpc_ok.mpr ⟨by simp [hm], by rw [wrap16_toaddr]⟩

theorem setsp_toaddr (hm : w.msb = false) : setsp s (toaddr w) = .ok (s.setSp w) :=
  setsp_ok.mpr ⟨by simp [hm], by rw [wrap16_toaddr]⟩

theorem setbp_toaddr (hm : w.msb = false) : setbp s (toaddr w) = .ok (s.setBp w) :=
  setbp_ok.mpr ⟨by simp [hm], by rw [wrap16_toaddr]⟩

/-! `memWrite`, `setpc`, `setsp` and `setbp` raise Segfault out of bounds and nothing else (R36). -/

theorem memWrite_error {a : Int} {e : MachineError} :
    memWrite s a v = .error e ↔ e = .segfault ∧ oob a = true := by
  obtain ⟨h, -, -, -⟩ := @checked_error s a v e
  exact h

theorem setpc_error {x : Int} {e : MachineError} : setpc s x = .error e ↔ e = .segfault ∧ oob x = true := by
  obtain ⟨-, h, -, -⟩ := @checked_error s x 0#16 e
  exact h

theorem setsp_error {x : Int} {e : MachineError} : setsp s x = .error e ↔ e = .segfault ∧ oob x = true := by
  obtain ⟨-, -, h, -⟩ := @checked_error s x 0#16 e
  exact h

theorem setbp_error {x : Int} {e : MachineError} : setbp s x = .error e ↔ e = .segfault ∧ oob x = true := by
  obtain ⟨-, -, -, h⟩ := @checked_error s x 0#16 e
  exact h

/-- A word with bit 15 set is out of bounds as an address. -/
theorem oob_of_msb (hm : w.msb = true) : oob (toaddr w) = true := (oob_toaddr w).trans hm

/-- The word a place gives to pc. -/
def placeWord (s : State) : Place → Word
  | .addr a => a.setWidth 16
  | .inReg r => readReg s r

theorem msb_addr (a : BitVec 10) : (a.setWidth 16).msb = false := by
  have := a.isLt
  rw [BitVec.msb_eq_decide, decide_eq_false_iff_not, BitVec.toNat_setWidth_of_le (by decide)]
  omega

theorem placeAddr_eq_toaddr (s : State) (p : Place) : placeAddr s p = toaddr (placeWord s p) := by
  cases p with
  | addr a =>
    have hn : (a.setWidth 16).toNat = a.toNat := BitVec.toNat_setWidth_of_le (by decide)
    rw [placeWord, toaddr_eq_toNat (msb_addr a), hn, placeAddr]
  | inReg r => rfl

theorem setpc_place {p : Place} (hm : (placeWord s p).msb = false) :
    setpc s (placeAddr s p) = .ok (s.setPc (placeWord s p)) := by
  rw [placeAddr_eq_toaddr, setpc_toaddr hm]

theorem setpc_place_error {p : Place} (hm : (placeWord s p).msb = true) :
    setpc s (placeAddr s p) = .error .segfault := by
  rw [placeAddr_eq_toaddr, setpc_error.mpr ⟨rfl, oob_of_msb hm⟩]

/-- `w` pushed, with sp moved to `p`. -/
def State.pushed (s : State) (p w : Word) : State := (s.setSp p).setMem (s.mem.write p.toNat w)

theorem push_of_pushesTo {p : Word} {e : State → Word} (h : s.pushesTo p) :
    push s e = .ok (s.pushed p (e (s.setSp p))) :=
  push_ok.mpr ⟨p, pushSp_of_pushesTo h, rfl⟩

theorem push_of_pushOverflows {e : State → Word} (h : s.pushOverflows) : push s e = .error .stackOverflow := by
  rw [push, pushSp_of_pushOverflows h]
  rfl

theorem pop_of_null {dst : State → Word → Except MachineError State} (h : s.mem.read s.sp.toNat = none) :
    pop s dst = .error .stackUnderflow := by
  simp [pop, h]

theorem pop_of_error {dst : State → Word → Except MachineError State} {e : MachineError}
    (h : s.mem.read s.sp.toNat = some v) (he : dst s v = .error e) : pop s dst = .error e := by
  simp [pop, h, he, Except.map]

end

/-! ### The rules -/

/-- The ways an instruction begun in `s` can raise an error before it has changed anything. -/
inductive Raises (s : State) : Instr → MachineError → Prop
  | rhs {f d rhs e} (hf : f ∈ [Instr.add, Instr.div, Instr.cmp, Instr.nand, Instr.mov])
      (he : rhsValue s rhs = .error e) : Raises s (f d rhs) e
  | divisor {d rhs v e} (hv : rhsValue s rhs = .ok v) (he : divInto s v (gprOf d) = .error e) :
      Raises s (.div d rhs) e
  | field {i n} (hi : regField i = some n) (hn : 10 ≤ n.toNat) : Raises s i .invalidRegister
  | load {d a} (hn : s.mem.read a.toNat = none) : Raises s (.ld d a) .segfault
  | store {n q r} (hq : regOf n = .ok q) (hm : (readReg s q).msb = true) : Raises s (.stRegi n r) .segfault
  | popRegNull {n q} (hq : regOf n = .ok q) (hn : s.mem.read s.sp.toNat = none) :
      Raises s (.popReg n) .stackUnderflow
  | popMemNull {a} (hn : s.mem.read s.sp.toNat = none) : Raises s (.popMem a) .stackUnderflow
  | retNull (hn : s.mem.read s.sp.toNat = none) : Raises s .ret .stackUnderflow
  | popReg {n q v e} (hq : regOf n = .ok q) (hv : s.mem.read s.sp.toNat = some v) (he : writeReg s q v = .error e) :
      Raises s (.popReg n) e
  | ret {v} (hv : s.mem.read s.sp.toNat = some v) (hm : v.msb = true) : Raises s .ret .segfault
  | pushImm {k} (ho : s.pushOverflows) : Raises s (.pushImm k) .stackOverflow
  | pushReg {n q} (hq : regOf n = .ok q) (ho : s.pushOverflows) : Raises s (.pushReg n) .stackOverflow
  | int {k e} (he : runTask s (intTask (sext8 k).toInt) = .error e) : Raises s (.int k) e
  | jump {tg p} (hp : placeOf tg = .ok p) (hm : (placeWord s p).msb = true) : Raises s (.jmp tg) .segfault
  | branch {b tg p} (hp : placeOf tg = .ok p) (hb : taken s b) (hr : s.pushRet = false)
      (hm : (placeWord s p).msb = true) : Raises s (.bcc b tg) .segfault
  | call {b tg p} (hp : placeOf tg = .ok p) (hb : taken s b) (hr : s.pushRet = true) (ho : s.pushOverflows) :
      Raises s (.bcc b tg) .stackOverflow

/-- The states an instruction begun in `s` can leave. -/
inductive Ends (s : State) : Instr → State → Prop
  | raise {i e} (h : Raises s i e) : Ends s i (raise e s)
  | hlt {x} : Ends s (.hlt x) (s.setRun .halted)
  | add {d rhs v} (hv : rhsValue s rhs = .ok v) : Ends s (.add d rhs) (addInto s v (gprOf d))
  | div {d rhs v t} (hv : rhsValue s rhs = .ok v) (ht : divInto s v (gprOf d) = .ok t) : Ends s (.div d rhs) t
  | cmp {d rhs v} (hv : rhsValue s rhs = .ok v) : Ends s (.cmp d rhs) (compareWith s v (gprOf d))
  | nand {d rhs v} (hv : rhsValue s rhs = .ok v) : Ends s (.nand d rhs) (nandInto s v (gprOf d))
  | mov {d rhs v} (hv : rhsValue s rhs = .ok v) : Ends s (.mov d rhs) (moveInto s v (gprOf d))
  | ld {d a w} (hw : s.mem.read a.toNat = some w) : Ends s (.ld d a) (writeGpr s (gprOf d) w)
  | lea {d a} : Ends s (.lea d a) (writeGpr s (gprOf d) (a.setWidth 16))
  | stMem {a r} : Ends s (.stMem a r) (s.setMem (s.mem.write a.toNat (readReg s (.gpr (gprOf r)))))
  | stRegi {n q r} (hq : regOf n = .ok q) (hm : (readReg s q).msb = false) :
      Ends s (.stRegi n r) (s.setMem (s.mem.write (readReg s q).toNat (readReg s (.gpr (gprOf r)))))
  | popReg {n q v t} (hq : regOf n = .ok q) (hv : s.mem.read s.sp.toNat = some v) (ht : writeReg s q v = .ok t) :
      Ends s (.popReg n) (dropTop t)
  | popMem {a v} (hv : s.mem.read s.sp.toNat = some v) :
      Ends s (.popMem a) (dropTop (s.setMem (s.mem.write a.toNat v)))
  | ret {v} (hv : s.mem.read s.sp.toNat = some v) (hm : v.msb = false) : Ends s .ret (dropTop (s.setPc v))
  | pushImm {k p} (hp : s.pushesTo p) : Ends s (.pushImm k) (s.pushed p (sext8 k))
  | pushReg {n q p} (hq : regOf n = .ok q) (hp : s.pushesTo p) :
      Ends s (.pushReg n) (s.pushed p (readReg (s.setSp p) q))
  | int {k t} (ht : runTask s (intTask (sext8 k).toInt) = .ok t) : Ends s (.int k) t
  | jump {tg p} (hp : placeOf tg = .ok p) (hm : (placeWord s p).msb = false) :
      Ends s (.jmp tg) (s.setPc (placeWord s p))
  | stay {b tg p} (hp : placeOf tg = .ok p) (hb : ¬ taken s b) : Ends s (.bcc b tg) s
  | branch {b tg p} (hp : placeOf tg = .ok p) (hb : taken s b) (hr : s.pushRet = false)
      (hm : (placeWord s p).msb = false) : Ends s (.bcc b tg) (s.setPc (placeWord s p))
  | call {b tg p q} (hp : placeOf tg = .ok p) (hb : taken s b) (hr : s.pushRet = true) (hq : s.pushesTo q)
      (hm : (placeWord (s.setSp q) p).msb = false) :
      Ends s (.bcc b tg) ((s.pushed q s.pc).setPc (placeWord (s.setSp q) p))
  | callCrash {b n r q} (hn : regOf n = .ok r) (hb : taken s b) (hr : s.pushRet = true) (hq : s.pushesTo q)
      (hm : (readReg (s.setSp q) r).msb = true) :
      Ends s (.bcc b (.reg n)) (Machine.raise .segfault (s.pushed q s.pc))

/-! ### Each rule is what `exec` does -/

section
variable {s : State}

theorem exec_rhs_error {f : BitVec 3 → Rhs → Instr} {d : BitVec 3} {rhs : Rhs} {e : MachineError}
    (hf : f ∈ [Instr.add, Instr.div, Instr.cmp, Instr.nand, Instr.mov]) (he : rhsValue s rhs = .error e) :
    exec (f d rhs) s = .next (raise e s) := by
  simp only [List.mem_cons, List.not_mem_nil, or_false] at hf
  rcases hf with rfl | rfl | rfl | rfl | rfl
  · rw [exec_add, execAdd, he]; rfl
  · rw [exec_div, execDiv, he]; rfl
  · rw [exec_cmp, execCmp, he]; rfl
  · rw [exec_nand, execNand, he]; rfl
  · rw [exec_mov, execMov, he]; rfl

/-- The register field is checked before anything else, in each of the forms that have one (R57, D14). -/
theorem exec_field_error {i : Instr} {n : BitVec 4} (hi : regField i = some n) (hn : 10 ≤ n.toNat) :
    exec i s = .next (raise .invalidRegister s) := by
  have he : regOf n = .error .invalidRegister := regOf_error.mpr ⟨rfl, hn⟩
  have hreg : rhsValue s (.reg n) = .error .invalidRegister := by rw [rhsValue, he]; rfl
  have hregi : rhsValue s (.regi n) = .error .invalidRegister := by rw [rhsValue, he]; rfl
  have hplace : placeOf (.reg n) = .error .invalidRegister := by rw [placeOf, he]; rfl
  cases i <;> cases hi
  case addReg d => exact exec_rhs_error (f := Instr.add) (by simp) hreg
  case addRegi d => exact exec_rhs_error (f := Instr.add) (by simp) hregi
  case divReg d => exact exec_rhs_error (f := Instr.div) (by simp) hreg
  case divRegi d => exact exec_rhs_error (f := Instr.div) (by simp) hregi
  case cmpReg d => exact exec_rhs_error (f := Instr.cmp) (by simp) hreg
  case cmpRegi d => exact exec_rhs_error (f := Instr.cmp) (by simp) hregi
  case nandReg d => exact exec_rhs_error (f := Instr.nand) (by simp) hreg
  case nandRegi d => exact exec_rhs_error (f := Instr.nand) (by simp) hregi
  case movReg d => exact exec_rhs_error (f := Instr.mov) (by simp) hreg
  case movRegi d => exact exec_rhs_error (f := Instr.mov) (by simp) hregi
  case stRegi r => rw [exec_stRegi, execStRegi, he]; rfl
  case popReg => rw [exec_popReg, execPopReg, he]; rfl
  case pushReg => rw [exec_pushReg, execPushReg, he]; rfl
  case jmpReg => rw [exec_jmpReg, execJmp, hplace]; rfl
  all_goals simp [execBcc, hplace]

theorem placeOf_reg {n : BitVec 4} {r : Reg} (hr : regOf n = .ok r) : placeOf (.reg n) = .ok (.inReg r) := by
  rw [placeOf, hr]
  rfl

theorem exec_bcc_of_taken {b : Branch} {tg : Target} {p : Place} (hp : placeOf tg = .ok p) (hb : taken s b) :
    exec (.bcc b tg) s = takeBranch p s := by
  rw [exec_bcc, execBcc, hp]
  exact if_pos (taken_iff_condition.mp hb)

theorem takeBranch_of_pushesTo {p : Place} {q : Word} (hr : s.pushRet = true) (hq : s.pushesTo q) :
    takeBranch p s = complete (s.pushed q s.pc) (setpc (s.pushed q s.pc) (placeAddr (s.pushed q s.pc) p)) := by
  rw [takeBranch, if_pos hr, push_of_pushesTo hq]
  rfl

@[simp] theorem readReg_pushed (s : State) (p w : Word) (r : Reg) :
    readReg (s.pushed p w) r = readReg (s.setSp p) r := by
  rcases r with (r | r) | _ | _ <;> simp [readReg, regValue, State.pushed]

@[simp] theorem placeWord_pushed (s : State) (q w : Word) (p : Place) :
    placeWord (s.pushed q w) p = placeWord (s.setSp q) p := by
  cases p <;> simp [placeWord]

theorem exec_popReg_of_regOf {n : BitVec 4} {q : Reg} (hq : regOf n = .ok q) :
    exec (.popReg n) s = complete s (pop s fun t v => writeReg t q v) := by
  rw [exec_popReg, execPopReg, hq]
  rfl

theorem exec_pushReg_of_regOf {n : BitVec 4} {q : Reg} (hq : regOf n = .ok q) :
    exec (.pushReg n) s = complete s (push s fun t => readReg t q) := by
  rw [exec_pushReg, execPushReg, hq]
  rfl

theorem exec_of_raises {i : Instr} {e : MachineError} (h : Raises s i e) : exec i s = .next (raise e s) := by
  cases h with
  | rhs hf he => exact exec_rhs_error hf he
  | divisor hv he => rw [exec_div, execDiv, hv]; exact congrArg (complete s) he
  | field hi hn => exact exec_field_error hi hn
  | load hn => rw [exec_ld, execLd, memRead_field_null hn]; rfl
  | store hq hm =>
    rw [exec_stRegi, execStRegi, hq]
    exact congrArg (complete s) (memWrite_error.mpr ⟨rfl, oob_of_msb hm⟩)
  | popRegNull hq hn => rw [exec_popReg_of_regOf hq, pop_of_null hn]; rfl
  | popMemNull hn => rw [exec_popMem, execPopMem, pop_of_null hn]; rfl
  | retNull hn => rw [exec_ret, execRet, pop_of_null hn]; rfl
  | popReg hq hv he => rw [exec_popReg_of_regOf hq, pop_of_error hv he]; rfl
  | ret hv hm =>
    rw [exec_ret, execRet, pop_of_error hv (setpc_error.mpr ⟨rfl, oob_of_msb hm⟩)]
    rfl
  | pushImm ho => rw [exec_pushImm, execPushImm, push_of_pushOverflows ho]; rfl
  | pushReg hq ho => rw [exec_pushReg_of_regOf hq, push_of_pushOverflows ho]; rfl
  | int he => rw [exec_int, execInt, he]; rfl
  | jump hp hm => rw [exec_jmp, execJmp, hp]; exact congrArg (complete s) (setpc_place_error hm)
  | branch hp hb hr hm => rw [exec_bcc_of_taken hp hb, takeBranch_without_push hr, setpc_place_error hm]; rfl
  | call hp hb hr ho => rw [exec_bcc_of_taken hp hb, takeBranch, if_pos hr, push_of_pushOverflows ho]; rfl

theorem exec_of_ends {i : Instr} {t : State} (h : Ends s i t) : exec i s = .next t := by
  cases h with
  | raise h => exact exec_of_raises h
  | hlt => rfl
  | add hv => rw [exec_add, execAdd, hv]; rfl
  | div hv ht => rw [exec_div, execDiv, hv]; exact congrArg (complete s) ht
  | cmp hv => rw [exec_cmp, execCmp, hv]; rfl
  | nand hv => rw [exec_nand, execNand, hv]; rfl
  | mov hv => rw [exec_mov, execMov, hv]; rfl
  | ld hw => rw [exec_ld, execLd, memRead_field (by decide) hw]; rfl
  | lea => rfl
  | stMem => rw [exec_stMem, execStMem, memWrite_field (by decide)]; rfl
  | stRegi hq hm => rw [exec_stRegi, execStRegi, hq]; exact congrArg (complete s) (memWrite_toaddr hm)
  | popReg hq hv ht => rw [exec_popReg_of_regOf hq, pop_ok.mpr ⟨_, _, hv, ht, rfl⟩]; rfl
  | popMem hv => rw [exec_popMem, execPopMem, pop_ok.mpr ⟨_, _, hv, memWrite_field (by decide) _, rfl⟩]; rfl
  | ret hv hm => rw [exec_ret, execRet, pop_ok.mpr ⟨_, _, hv, setpc_toaddr hm, rfl⟩]; rfl
  | pushImm hp => rw [exec_pushImm, execPushImm, push_of_pushesTo hp]; rfl
  | pushReg hq hp => rw [exec_pushReg_of_regOf hq, push_of_pushesTo hp]; rfl
  | int ht => rw [exec_int, execInt, ht]; rfl
  | jump hp hm => rw [exec_jmp, execJmp, hp]; exact congrArg (complete s) (setpc_place hm)
  | stay hp hb =>
    rw [exec_bcc, execBcc, hp]
    exact if_neg (mt taken_iff_condition.mpr hb)
  | branch hp hb hr hm => rw [exec_bcc_of_taken hp hb, takeBranch_without_push hr, setpc_place hm]; rfl
  | call hp hb hr hq hm =>
    rw [exec_bcc_of_taken hp hb, takeBranch_of_pushesTo hr hq, setpc_place (by simpa using hm), placeWord_pushed]
    rfl
  | callCrash hn hb hr hq hm =>
    rw [exec_bcc_of_taken (placeOf_reg hn) hb, takeBranch_of_pushesTo hr hq,
      setpc_place_error (by simpa [placeWord] using hm)]
    rfl

/-! ### A rule applies in every state -/

theorem field_or_regOf (n : BitVec 4) : 10 ≤ n.toNat ∨ ∃ r, regOf n = .ok r := by
  rcases regOf_cases n with ⟨h, -⟩ | ⟨-, h⟩
  · exact .inl h
  · exact .inr h

theorem field_or_placeOf (tg : Target) :
    (∃ n, tg = .reg n ∧ 10 ≤ n.toNat) ∨ ∃ p, placeOf tg = .ok p := by
  cases tg with
  | mem a => exact .inr ⟨.addr a, rfl⟩
  | reg n =>
    rcases field_or_regOf n with hn | ⟨r, hr⟩
    · exact .inl ⟨n, rfl, hn⟩
    · exact .inr ⟨.inReg r, placeOf_reg hr⟩

theorem regField_jmp_reg (n : BitVec 4) : regField (.jmp (.reg n)) = some n := rfl

theorem regField_bcc_reg (b : Branch) (n : BitVec 4) : regField (.bcc b (.reg n)) = some n := by
  cases b <;> rfl

theorem ends_rhs {f : BitVec 3 → Rhs → Instr} {d : BitVec 3} {rhs : Rhs}
    (hf : f ∈ [Instr.add, Instr.div, Instr.cmp, Instr.nand, Instr.mov])
    (hok : ∀ v, rhsValue s rhs = .ok v → ∃ t, Ends s (f d rhs) t) : ∃ t, Ends s (f d rhs) t := by
  cases hv : rhsValue s rhs with
  | error e => exact ⟨_, .raise (.rhs hf hv)⟩
  | ok v => exact hok v hv

theorem ends_popReg (n : BitVec 4) : ∃ t, Ends s (.popReg n) t := by
  rcases field_or_regOf n with hn | ⟨q, hq⟩
  · exact ⟨_, .raise (.field rfl hn)⟩
  · cases hv : s.mem.read s.sp.toNat with
    | none => exact ⟨_, .raise (.popRegNull hq hv)⟩
    | some v =>
      cases ht : writeReg s q v with
      | error e => exact ⟨_, .raise (.popReg hq hv ht)⟩
      | ok t => exact ⟨_, .popReg hq hv ht⟩

theorem ends_ret : ∃ t, Ends s .ret t := by
  cases hv : s.mem.read s.sp.toNat with
  | none => exact ⟨_, .raise (.retNull hv)⟩
  | some v =>
    cases hm : v.msb with
    | true => exact ⟨_, .raise (.ret hv hm)⟩
    | false => exact ⟨_, .ret hv hm⟩

theorem ends_jmp (tg : Target) : ∃ t, Ends s (.jmp tg) t := by
  rcases field_or_placeOf tg with ⟨n, rfl, hn⟩ | ⟨p, hp⟩
  · exact ⟨_, .raise (.field (regField_jmp_reg n) hn)⟩
  · cases hm : (placeWord s p).msb with
    | true => exact ⟨_, .raise (.jump hp hm)⟩
    | false => exact ⟨_, .jump hp hm⟩

/-- A taken branch that pushes crashes after the push only where a register gives the target: an address field has
bit 15 clear. -/
theorem ends_call {b : Branch} {tg : Target} {p : Place} (hp : placeOf tg = .ok p) (hb : taken s b)
    (hr : s.pushRet = true) : ∃ t, Ends s (.bcc b tg) t := by
  rcases pushesTo_or_pushOverflows s with ⟨q, hq⟩ | ho
  · cases hm : (placeWord (s.setSp q) p).msb with
    | false => exact ⟨_, .call hp hb hr hq hm⟩
    | true =>
      rcases placeOf_ok hp with ⟨a, rfl, rfl⟩ | ⟨n, r, rfl, hn, rfl⟩
      · rw [placeWord, msb_addr] at hm
        cases hm
      · exact ⟨_, .callCrash hn hb hr hq hm⟩
  · exact ⟨_, .raise (.call hp hb hr ho)⟩

theorem ends_bcc (b : Branch) (tg : Target) : ∃ t, Ends s (.bcc b tg) t := by
  rcases field_or_placeOf tg with ⟨n, rfl, hn⟩ | ⟨p, hp⟩
  · exact ⟨_, .raise (.field (regField_bcc_reg b n) hn)⟩
  · by_cases hb : taken s b
    · cases hr : s.pushRet with
      | true => exact ends_call hp hb hr
      | false =>
        cases hm : (placeWord s p).msb with
        | true => exact ⟨_, .raise (.branch hp hb hr hm)⟩
        | false => exact ⟨_, .branch hp hb hr hm⟩
    · exact ⟨_, .stay hp hb⟩

/-- Every instruction ends, in every state. -/
theorem exists_ends (s : State) (i : Instr) : ∃ t, Ends s i t := by
  induction i using Instr.mnemonicCases with
  | hlt => exact ⟨_, .hlt⟩
  | add d rhs => exact ends_rhs (by simp) fun v hv => ⟨_, .add hv⟩
  | div d rhs =>
    refine ends_rhs (by simp) fun v hv => ?_
    cases ht : divInto s v (gprOf d) with
    | error e => exact ⟨_, .raise (.divisor hv ht)⟩
    | ok t => exact ⟨t, .div hv ht⟩
  | cmp d rhs => exact ends_rhs (by simp) fun v hv => ⟨_, .cmp hv⟩
  | nand d rhs => exact ends_rhs (by simp) fun v hv => ⟨_, .nand hv⟩
  | mov d rhs => exact ends_rhs (by simp) fun v hv => ⟨_, .mov hv⟩
  | ld d a =>
    cases hw : s.mem.read a.toNat with
    | none => exact ⟨_, .raise (.load hw)⟩
    | some w => exact ⟨_, .ld hw⟩
  | lea => exact ⟨_, .lea⟩
  | stMem => exact ⟨_, .stMem⟩
  | stRegi n r =>
    rcases field_or_regOf n with hn | ⟨q, hq⟩
    · exact ⟨_, .raise (.field rfl hn)⟩
    · cases hm : (readReg s q).msb with
      | true => exact ⟨_, .raise (.store hq hm)⟩
      | false => exact ⟨_, .stRegi hq hm⟩
  | popReg n => exact ends_popReg n
  | popMem a =>
    cases hv : s.mem.read s.sp.toNat with
    | none => exact ⟨_, .raise (.popMemNull hv)⟩
    | some v => exact ⟨_, .popMem hv⟩
  | pushImm k =>
    rcases pushesTo_or_pushOverflows s with ⟨p, hp⟩ | ho
    · exact ⟨_, .pushImm hp⟩
    · exact ⟨_, .raise (.pushImm ho)⟩
  | pushReg n =>
    rcases field_or_regOf n with hn | ⟨q, hq⟩
    · exact ⟨_, .raise (.field rfl hn)⟩
    · rcases pushesTo_or_pushOverflows s with ⟨p, hp⟩ | ho
      · exact ⟨_, .pushReg hq hp⟩
      · exact ⟨_, .raise (.pushReg hq ho)⟩
  | int k =>
    cases ht : runTask s (intTask (sext8 k).toInt) with
    | error e => exact ⟨_, .raise (.int ht)⟩
    | ok t => exact ⟨t, .int ht⟩
  | jmp tg => exact ends_jmp tg
  | ret => exact ends_ret
  | bcc b tg => exact ends_bcc b tg

/-- The rules are `exec`: each is sound, and they are complete because one applies in every state. -/
theorem exec_iff_ends {i : Instr} {t : State} : exec i s = .next t ↔ Ends s i t := by
  refine ⟨fun h => ?_, exec_of_ends⟩
  obtain ⟨u, hu⟩ := exists_ends s i
  rw [exec_of_ends hu, Host.Outcome.next.injEq] at h
  exact h ▸ hu

end

/-- Settles O13: one of the rules applies. -/
theorem everyInstructionHasANextState : Obligations.EveryInstructionHasANextState := by
  intro i s
  obtain ⟨t, ht⟩ := exists_ends s i
  exact ⟨t, exec_of_ends ht⟩

end Sys2Proof.Machine
end

section
/-!
PROOFS. O42 to O47 (45_int.md): the codes of INT and what their tasks do. `taskCode` is the manual's table read from
the task to the code, so that a task tells which code was given.
-/

namespace Sys2Proof.Machine

/-! ### Codes and tasks -/

/-- The code of a task in the manual's table (R91 to R104); none for what the table does not list. -/
def taskCode : IntTask → Option Int
  | .raises .stackUnderflow => some (-6)
  | .raises .segfault => some (-5)
  | .raises .illegalInstruction => some (-4)
  | .raises .divideByZero => some (-3)
  | .raises .invalidRegister => some (-2)
  | .raises .stackOverflow => some (-1)
  | .printReg (.word .r0) => some 0
  | .printReg (.word .r1) => some 1
  | .printReg (.word .r2) => some 2
  | .printReg (.word .r3) => some 3
  | .printReg (.word .r4) => some 4
  | .printReg (.word .r5) => some 5
  | .printReg (.float .r6) => some 6
  | .printReg (.float .r7) => some 7
  | .printMem => some 8
  | .readChar => some 9
  | .sleep => some 10
  | .flag .zero .set => some 11
  | .flag .zero .unset => some 12
  | .flag .zero .invert => some 13
  | .flag .overflow .set => some 21
  | .flag .overflow .unset => some 22
  | .flag .overflow .invert => some 23
  | .flag .remainder .set => some 31
  | .flag .remainder .unset => some 32
  | .flag .remainder .invert => some 33
  | .readLine => some 40
  | .flag .sign .set => some 41
  | .flag .sign .unset => some 42
  | .flag .sign .invert => some 43
  | .setSp => some 60
  | .setBp => some 61
  | .setPushRet true => some 70
  | .setPushRet false => some 71
  | .unlisted => none

/-- A listed code is the code of its task. -/
theorem taskCode_intTask : ∀ c ∈ listedCodes, taskCode (intTask c) = some c := by decide

/-- A code outside the table has no task. -/
theorem intTask_of_not_mem {c : Int} (h : c ∉ listedCodes) : intTask c = .unlisted := by
  unfold intTask
  split
  case h_35 => rfl
  all_goals exact absurd (by decide) h

theorem sext8_toInt (k : BitVec 8) : (sext8 k).toInt = k.toInt := BitVec.toInt_signExtend_of_le (by decide)

/-- The task of an INT tells its code. -/
theorem code_of_intTask {k c : BitVec 8} {task : IntTask} (hk : intTask (sext8 k).toInt = task)
    (hc : taskCode task = some c.toInt) : k = c := by
  rw [sext8_toInt] at hk
  by_cases hl : k.toInt ∈ listedCodes
  · rw [← hk, taskCode_intTask _ hl] at hc
    exact BitVec.eq_of_toInt_eq (Option.some.inj hc)
  · rw [← hk, intTask_of_not_mem hl] at hc
    cases hc

/-- INT with a task that ends in `t`. -/
theorem exec_int_ok {k : BitVec 8} {task : IntTask} {s t : State} (hk : intTask (sext8 k).toInt = task)
    (ht : runTask s task = .ok t) : exec (.int k) s = .next t :=
  exec_of_ends (.int (hk ▸ ht))

/-- INT with a task that raises `e`. -/
theorem exec_int_error {k : BitVec 8} {task : IntTask} {s : State} {e : MachineError}
    (hk : intTask (sext8 k).toInt = task) (he : runTask s task = .error e) :
    exec (.int k) s = .next (s.crashedWith e) :=
  exec_of_raises (.int (hk ▸ he))

/-- Settles O42: the tasks of the six codes raise, and so does a code without a task. -/
theorem intErrorCodes : Obligations.IntErrorCodes := by
  refine fun s => ⟨exec_int_error rfl rfl, exec_int_error rfl rfl, exec_int_error rfl rfl, exec_int_error rfl rfl,
    exec_int_error rfl rfl, exec_int_error rfl rfl, fun i hi => ?_⟩
  rw [← sext8_toInt] at hi
  exact exec_int_error (intTask_of_not_mem hi) rfl

/-- Settles O43: the task of a code 0 to 7 prints the register of that number. -/
theorem intPrintsARegister : Obligations.IntPrintsARegister :=
  fun _ => ⟨exec_int_ok rfl rfl, exec_int_ok rfl rfl, exec_int_ok rfl rfl, exec_int_ok rfl rfl,
    exec_int_ok rfl rfl, exec_int_ok rfl rfl, exec_int_ok rfl rfl, exec_int_ok rfl rfl⟩

/-- Settles O46: the task of each code is one operation on one flag. -/
theorem intFlagCodes : Obligations.IntFlagCodes :=
  fun _ => ⟨exec_int_ok rfl rfl, exec_int_ok rfl rfl, exec_int_ok rfl rfl, exec_int_ok rfl rfl,
    exec_int_ok rfl rfl, exec_int_ok rfl rfl, exec_int_ok rfl rfl, exec_int_ok rfl rfl, exec_int_ok rfl rfl,
    exec_int_ok rfl rfl, exec_int_ok rfl rfl, exec_int_ok rfl rfl⟩

/-- Settles O47: sp and bp are set as any address is. -/
theorem intSleepAndPointers : Obligations.IntSleepAndPointers := by
  refine fun s => ⟨exec_int_ok rfl rfl, fun hm => ⟨?_, ?_⟩, fun hm => ?_⟩
  · exact exec_int_ok (task := .setSp) rfl (setsp_toaddr hm)
  · exact exec_int_ok (task := .setBp) rfl (setbp_toaddr hm)
  · have ho : oob (toaddr s.r4) = true := oob_of_msb hm
    exact ⟨exec_int_error (task := .setSp) rfl (setsp_error.mpr ⟨rfl, ho⟩),
      exec_int_error (task := .setBp) rfl (setbp_error.mpr ⟨rfl, ho⟩)⟩

/-! ### INT 8 -/

section
variable {s : State}

theorem printMemory_error (h : s.r0.msb = true ∨ s.r1.msb = true) : printMemory s = .error .segfault := by
  have ho : (oob (toaddr s.r0) || oob (toaddr s.r1)) = true := by simpa using h
  exact if_pos ho

/-- With both ends in bounds the range is the one of their unsigned values. -/
theorem printMemory_of_bounds (h0 : s.r0.msb = false) (h1 : s.r1.msb = false) :
    printMemory s =
      if s.r1.toNat < s.r0.toNat then .ok (s.emit [.printMem (Config.descendingPrint s.draws)]).nextDraw
      else .ok (s.emit [.printMem (cellsBetween s.mem s.r0.toNat s.r1.toNat)]) := by
  have ho : ¬ (oob (toaddr s.r0) || oob (toaddr s.r1)) = true := by simp [h0, h1]
  refine (if_neg ho).trans ?_
  simp only [State.getWord, toaddr_eq_toNat h0, toaddr_eq_toNat h1, Int.ofNat_lt, Int.toNat_natCast]

/-- A word not above one with bit 15 clear has bit 15 clear. -/
theorem msb_of_le {v w : Word} (hw : w.msb = false) (h : v.toNat ≤ w.toNat) : v.msb = false := by
  rw [BitVec.msb_eq_decide, decide_eq_false_iff_not] at *
  omega

/-- Selecting cells of a memory by their address keeps the form. -/
theorem wf_filter {m : Memory} (h : m.wf) (f : Nat → Bool) : Memory.wf (m.filter fun c => f c.1) :=
  ⟨h.1.filter _, fun p hp => h.2 p (List.mem_filter.mp hp).1⟩

theorem read_filter (m : Memory) (f : Nat → Bool) (a : Nat) :
    Memory.read (m.filter fun c => f c.1) a = if f a = true then m.read a else none := by
  induction m with
  | nil => simp
  | cons c m ih =>
    obtain ⟨b, w⟩ := c
    by_cases hb : f b = true
    · rw [List.filter_cons_of_pos (p := fun c : Nat × Word => f c.1) hb, Memory.read_cons, Memory.read_cons, ih]
      by_cases hab : a = b
      · simp [hab, hb]
      · simp [hab]
    · rw [List.filter_cons_of_neg (p := fun c : Nat × Word => f c.1) hb, ih, Memory.read_cons]
      by_cases hab : a = b
      · simp [hab, hb]
      · simp [hab]

/-- What INT 8 collects address by address is what it finds in the memory's own order. -/
theorem cellsBetween_eq_filter {m : Memory} (h : m.wf) (lo hi : Nat) :
    cellsBetween m lo hi = m.filter fun c => decide (lo ≤ c.1) && decide (c.1 ≤ hi) := by
  have hf := wf_filter h fun a => decide (lo ≤ a) && decide (a ≤ hi)
  refine Memory.eq_of_read (wf_cellsBetween h lo hi) hf fun a => ?_
  rw [read_cellsBetween h, read_filter m fun a => decide (lo ≤ a) && decide (a ≤ hi)]
  simp

end

/-- Settles O44: the two ends in bounds give a range, ascending or not. -/
theorem intPrintsCells : Obligations.IntPrintsCells := by
  refine fun s hinv => ⟨fun h1 hle => ?_, fun h0 hlt => ?_, fun h => ?_⟩
  · refine exec_int_ok (task := .printMem) rfl ?_
    rw [runTask, printMemory_of_bounds (msb_of_le h1 hle) h1, if_neg (Nat.not_lt.mpr hle),
      cellsBetween_eq_filter hinv]
    rfl
  · refine ⟨Config.descendingPrint s.draws, exec_int_ok (task := .printMem) rfl ?_⟩
    rw [runTask, printMemory_of_bounds h0 (msb_of_le h0 (Nat.le_of_lt hlt)), if_pos hlt]
    rfl
  · exact exec_int_error (task := .printMem) rfl (printMemory_error h)

/-! ### INT 9 and INT 40 -/

/-- A character is taken from the supplied ones, if any are left. -/
theorem nextChar_state (s : State) :
    (nextChar s).2 = { s with inChars := s.inChars.tail, draws := s.draws + 1 } := by
  unfold nextChar
  cases hc : s.inChars with
  | nil => exact congrArg (fun l => ({ s with inChars := l, draws := s.draws + 1 } : State)) hc
  | cons c cs => rfl

/-- A line is taken from the supplied ones, if any are left. -/
theorem nextLine_state (s : State) :
    (nextLine s).2 = { s with inLines := s.inLines.tail, draws := s.draws + 1 } := by
  unfold nextLine
  cases hl : s.inLines with
  | nil => exact congrArg (fun l => ({ s with inLines := l, draws := s.draws + 1 } : State)) hl
  | cons l ls => rfl

theorem readChar_eq (s : State) : readChar s =
    { s with r0 := charWord s.draws (nextChar s).1, inChars := s.inChars.tail, draws := s.draws + 1 } := by
  rw [readChar, nextChar_state]
  rfl

theorem readLine_eq (s : State) : readLine s =
    { s with r0 := lineWord s.draws (nextLine s).1, out := s.out ++ lineEcho (nextLine s).1,
             inLines := s.inLines.tail, draws := s.draws + 1 } := by
  rw [readLine, nextLine_state]
  rfl

/-- Settles O45: the word is that of the next draw, which is the supplied answer where there is one. -/
theorem intReadsInput : Obligations.IntReadsInput := by
  refine fun s => ⟨⟨charWord s.draws (nextChar s).1, ?_, fun c cs hc => ?_⟩,
    ⟨lineWord s.draws (nextLine s).1, lineEcho (nextLine s).1, ?_, fun text w ls hl => ?_⟩⟩
  · exact exec_int_ok (task := .readChar) rfl (congrArg Except.ok (readChar_eq s))
  · simp [nextChar, hc, charWord]
  · exact exec_int_ok (task := .readLine) rfl (congrArg Except.ok (readLine_eq s))
  · simp [nextLine, hl, lineWord, lineEcho]

/-! ### What a task can do -/

/-- INT 8 adds one event and uses up a draw or none. -/
theorem printMemory_ok {s t : State} (h : printMemory s = .ok t) :
    ∃ cells d, t = { s with out := s.out ++ [.printMem cells], draws := d } := by
  simp only [printMemory] at h
  split at h
  · cases h
  · split at h
    · exact ⟨_, _, (Except.ok.inj h).symm⟩
    · exact ⟨_, s.draws, (Except.ok.inj h).symm⟩

/-- Everything a task can do: write R0 and the console, operate on one flag, set sp or bp, or write push_ret. -/
theorem runTask_ok {s t : State} {k : IntTask} (h : runTask s k = .ok t) :
    (∃ v es cs ls d, t = { s with r0 := v, out := s.out ++ es, inChars := cs, inLines := ls, draws := d } ∧
      ∀ b, k ≠ .setPushRet b) ∨
    (∃ f op, k = .flag f op ∧ t = applyFlag s op f) ∨
    (k = .setSp ∧ t = s.setSp s.r4) ∨
    (k = .setBp ∧ t = s.setBp s.r4) ∨
    ∃ b, k = .setPushRet b ∧ t = s.setPushRet b := by
  cases k with
  | raises e => cases h
  | unlisted => cases h
  | printReg g => exact .inl ⟨s.r0, _, s.inChars, s.inLines, s.draws, (Except.ok.inj h).symm, by simp⟩
  | printMem =>
    obtain ⟨cells, d, rfl⟩ := printMemory_ok h
    exact .inl ⟨s.r0, _, s.inChars, s.inLines, d, rfl, by simp⟩
  | readChar =>
    refine .inl ⟨charWord s.draws (nextChar s).1, [], s.inChars.tail, s.inLines, s.draws + 1, ?_, by simp⟩
    rw [← Except.ok.inj h, readChar_eq, List.append_nil]
  | sleep =>
    refine .inl ⟨s.r0, [], s.inChars, s.inLines, s.draws, ?_, by simp⟩
    rw [← Except.ok.inj h, List.append_nil]
  | flag f op => exact .inr (.inl ⟨f, op, rfl, (Except.ok.inj h).symm⟩)
  | readLine => 
    exact .inl ⟨lineWord s.draws (nextLine s).1, lineEcho (nextLine s).1, s.inChars, s.inLines.tail, s.draws + 1,
      by rw [← Except.ok.inj h, readLine_eq], by simp⟩
  | setSp =>
    obtain ⟨-, rfl⟩ := setsp_ok.mp h
    exact .inr (.inr (.inl ⟨rfl, by rw [wrap16_toaddr]; rfl⟩))
  | setBp =>
    obtain ⟨-, rfl⟩ := setbp_ok.mp h
    exact .inr (.inr (.inr (.inl ⟨rfl, by rw [wrap16_toaddr]; rfl⟩)))
  | setPushRet b => exact .inr (.inr (.inr (.inr ⟨b, rfl, (Except.ok.inj h).symm⟩)))

/-- The ways a task raises an error. -/
theorem runTask_error {s : State} {k : IntTask} {e : MachineError} (h : runTask s k = .error e) :
    k = .raises e ∨ (k = .unlisted ∧ e = .illegalInstruction) ∨
    (e = .segfault ∧ (k = .printMem ∨ k = .setSp ∨ k = .setBp)) := by
  cases k with
  | raises e' => exact .inl (congrArg IntTask.raises (Except.error.inj h))
  | unlisted => exact .inr (.inl ⟨rfl, (Except.error.inj h).symm⟩)
  | printMem =>
    simp only [runTask, printMemory] at h
    split at h
    · exact .inr (.inr ⟨(Except.error.inj h).symm, .inl rfl⟩)
    · split at h <;> cases h
  | setSp =>
    obtain ⟨rfl, -⟩ := setsp_error.mp h
    exact .inr (.inr ⟨rfl, .inr (.inl rfl)⟩)
  | setBp =>
    obtain ⟨rfl, -⟩ := setbp_error.mp h
    exact .inr (.inr ⟨rfl, .inr (.inr rfl)⟩)
  | _ => cases h

end Sys2Proof.Machine
end

section
/-!
PROOFS. O7 to O12, O50, O54 to O58: what every step keeps. Each statement takes from the rules of `Ends` one account of
a part of the state: who changes the system fields, the memory, the flags, and who crashes.
-/

namespace Sys2Proof.Machine

section
variable {s t : State}

/-! ### What the arithmetic writes -/

/-- The destination of an ADD, O, and into a float register R. -/
theorem addInto_eq (s : State) (v : Value) (g : Gpr) :
    (∃ q o w, g = .word q ∧ addInto s v g = (s.setO o).setWord q w) ∨
    ∃ q o r w, g = .float q ∧ addInto s v g = ((s.setO o).setR r).setFloat q w := by
  cases g with
  | word q => exact .inl ⟨q, _, _, rfl, rfl⟩
  | float q => exact .inr ⟨q, _, _, _, rfl, rfl⟩

/-- The destination of a DIV, O and R. -/
theorem divInto_ok {v : Value} {g : Gpr} (h : divInto s v g = .ok t) :
    ∃ o r, (∃ q w, t = ((s.setO o).setR r).setWord q w) ∨ ∃ q w, t = ((s.setO o).setR r).setFloat q w := by
  cases g with
  | word q =>
    simp only [divInto] at h
    split at h
    · cases h
    · exact ⟨_, _, .inl ⟨q, _, (Except.ok.inj h).symm⟩⟩
  | float q =>
    simp only [divInto] at h
    split at h
    · cases h
    · exact ⟨_, _, .inr ⟨q, _, (Except.ok.inj h).symm⟩⟩

/-- The divisions that raise, with the one error they raise. -/
theorem divInto_error {v : Value} {g : Gpr} {e : MachineError} (h : divInto s v g = .error e) :
    e = .divideByZero := by
  cases g with
  | word q =>
    simp only [divInto] at h
    split at h
    · exact (Except.error.inj h).symm
    · cases h
  | float q =>
    simp only [divInto] at h
    split at h
    · exact (Except.error.inj h).symm
    · cases h

/-- Z and S, by a CMP. -/
theorem compareWith_eq (s : State) (v : Value) (g : Gpr) : ∃ z n, compareWith s v g = (s.setS n).setZ z := by
  cases g with
  | word q => exact ⟨_, _, rfl⟩
  | float q => exact ⟨_, _, rfl⟩

theorem moveInto_eq (s : State) (v : Value) (g : Gpr) :
    (∃ q w, g = .word q ∧ moveInto s v g = s.setWord q w) ∨ ∃ q f, g = .float q ∧ moveInto s v g = s.setFloat q f := by
  cases g with
  | word q => exact .inl ⟨q, _, rfl, rfl⟩
  | float q => exact .inr ⟨q, _, rfl, rfl⟩

/-! ### The system fields -/

theorem sameSystem_refl (s : State) : s.sameSystem s := by simp [State.sameSystem]

theorem sameSystem_addInto (s : State) (v : Value) (g : Gpr) : s.sameSystem (addInto s v g) := by
  rcases addInto_eq s v g with ⟨q, o, w, -, h⟩ | ⟨q, o, r, w, -, h⟩ <;> simp [h, State.sameSystem]

theorem sameSystem_divInto {v : Value} {g : Gpr} (h : divInto s v g = .ok t) : s.sameSystem t := by
  obtain ⟨o, r, ⟨q, w, rfl⟩ | ⟨q, w, rfl⟩⟩ := divInto_ok h <;> simp [State.sameSystem]

theorem sameSystem_compareWith (s : State) (v : Value) (g : Gpr) : s.sameSystem (compareWith s v g) := by
  obtain ⟨z, n, h⟩ := compareWith_eq s v g
  simp [h, State.sameSystem]

theorem sameSystem_writeGpr (s : State) (g : Gpr) (w : Word) : s.sameSystem (writeGpr s g w) := by
  simp [State.sameSystem]

theorem sameSystem_moveInto (s : State) (v : Value) (g : Gpr) : s.sameSystem (moveInto s v g) := by
  rcases moveInto_eq s v g with ⟨q, w, -, h⟩ | ⟨q, f, -, h⟩ <;> simp [h, State.sameSystem]

theorem sameSystem_setMem (s : State) (m : Memory) : s.sameSystem (s.setMem m) := by simp [State.sameSystem]

theorem sameSystem_setPc (s : State) (w : Word) : s.sameSystem (s.setPc w) := by simp [State.sameSystem]

theorem sameSystem_pushed (s : State) (p w : Word) : s.sameSystem (s.pushed p w) := by
  simp [State.sameSystem, State.pushed]

theorem sameSystem_dropTop (h : s.sameSystem t) : s.sameSystem (dropTop t) := h

theorem sameSystem_writeReg {q : Reg} {w : Word} (h : writeReg s q w = .ok t) : s.sameSystem t := by
  rcases writeReg_ok h with ⟨g, rfl, rfl⟩ | ⟨rfl, -, rfl⟩ | ⟨rfl, -, rfl⟩ <;> simp [State.sameSystem]

/-- HLT halts, INT does what its task does, an error crashes, possibly after a push; nothing else changes bp, ir,
push_ret, the run state or the console. -/
theorem Ends.system {i : Instr} (h : Ends s i t) :
    s.sameSystem t ∨ (∃ x, i = .hlt x ∧ t = s.setRun .halted) ∨
    (∃ k, i = .int k ∧ runTask s (intTask (sext8 k).toInt) = .ok t) ∨
    ∃ e u, s.sameSystem u ∧ t = Machine.raise e u := by
  cases h with
  | raise => exact .inr (.inr (.inr ⟨_, s, sameSystem_refl s, rfl⟩))
  | hlt => exact .inr (.inl ⟨_, rfl, rfl⟩)
  | add => exact .inl (sameSystem_addInto _ _ _)
  | div hv ht => exact .inl (sameSystem_divInto ht)
  | cmp => exact .inl (sameSystem_compareWith _ _ _)
  | nand => exact .inl (sameSystem_writeGpr _ _ _)
  | mov => exact .inl (sameSystem_moveInto _ _ _)
  | ld | lea => exact .inl (sameSystem_writeGpr _ _ _)
  | stMem | stRegi => exact .inl (sameSystem_setMem _ _)
  | popReg hq hv ht => exact .inl (sameSystem_dropTop (sameSystem_writeReg ht))
  | popMem => exact .inl (sameSystem_dropTop (sameSystem_setMem _ _))
  | ret => exact .inl (sameSystem_dropTop (sameSystem_setPc _ _))
  | pushImm | pushReg => exact .inl (sameSystem_pushed _ _ _)
  | int ht => exact .inr (.inr (.inl ⟨_, rfl, ht⟩))
  | jump | branch => exact .inl (sameSystem_setPc _ _)
  | stay => exact .inl (sameSystem_refl s)
  | @call b tg p q => exact .inl (sameSystem_pushed s q s.pc)
  | callCrash => exact .inr (.inr (.inr ⟨_, _, sameSystem_pushed _ _ _, rfl⟩))

@[simp] theorem applyFlag_bp (s : State) (op : FlagOp) (f : Flag) : (applyFlag s op f).bp = s.bp := by cases f <;> rfl
@[simp] theorem applyFlag_pushRet (s : State) (op : FlagOp) (f : Flag) :
    (applyFlag s op f).pushRet = s.pushRet := by cases f <;> rfl
@[simp] theorem applyFlag_run (s : State) (op : FlagOp) (f : Flag) : (applyFlag s op f).run = s.run := by
  cases f <;> rfl
@[simp] theorem applyFlag_mem (s : State) (op : FlagOp) (f : Flag) : (applyFlag s op f).mem = s.mem := by
  cases f <;> rfl
@[simp] theorem applyFlag_out (s : State) (op : FlagOp) (f : Flag) : (applyFlag s op f).out = s.out := by
  cases f <;> rfl

section
variable {k : IntTask}

/-- A task that ends keeps the machine running and the memory as it is. -/
theorem runTask_run_mem (h : runTask s k = .ok t) : t.run = s.run ∧ t.mem = s.mem := by
  rcases runTask_ok h with ⟨v, es, cs, ls, d, rfl, -⟩ | ⟨f, op, -, rfl⟩ | ⟨-, rfl⟩ | ⟨-, rfl⟩ | ⟨b, -, rfl⟩ <;> simp

theorem runTask_out (h : runTask s k = .ok t) : ∃ es, t.out = s.out ++ es := by
  rcases runTask_ok h with ⟨v, es, cs, ls, d, rfl, -⟩ | ⟨f, op, -, rfl⟩ | ⟨-, rfl⟩ | ⟨-, rfl⟩ | ⟨b, -, rfl⟩
  · exact ⟨es, rfl⟩
  all_goals exact ⟨[], by simp⟩

theorem runTask_bp (h : runTask s k = .ok t) (hbp : t.bp ≠ s.bp) : k = .setBp := by
  rcases runTask_ok h with ⟨v, es, cs, ls, d, rfl, -⟩ | ⟨f, op, -, rfl⟩ | ⟨-, rfl⟩ | ⟨hk, -⟩ | ⟨b, -, rfl⟩
  case inr.inr.inr.inl => exact hk
  all_goals simp at hbp

theorem runTask_pushRet (h : runTask s k = .ok t) :
    t.pushRet = s.pushRet ∨ k = .setPushRet t.pushRet := by
  rcases runTask_ok h with ⟨v, es, cs, ls, d, rfl, -⟩ | ⟨f, op, -, rfl⟩ | ⟨-, rfl⟩ | ⟨-, rfl⟩ | ⟨b, rfl, rfl⟩
  case inr.inr.inr.inr => exact .inr rfl
  all_goals exact .inl (by simp)

end

/-- Settles O50: the task that writes bp has the code 61. -/
theorem basePointerWrittenOnlyByInt61 : Obligations.BasePointerWrittenOnlyByInt61 := by
  intro i s t h hbp
  rcases (exec_iff_ends.mp h).system with hsame | ⟨x, -, rfl⟩ | ⟨k, rfl, ht⟩ | ⟨e, u, hsame, rfl⟩
  · exact absurd hsame.1 hbp
  · exact absurd rfl hbp
  · rw [code_of_intTask (c := 61#8) (runTask_bp ht hbp) rfl]
  · exact absurd hsame.1 hbp

/-- A running machine that is halted ran HLT. -/
theorem hlt_of_halted {i : Instr} (hrun : s.run = .running) (h : Ends s i t) (hh : t.run = .halted) :
    ∃ x, i = .hlt x := by
  have hs : s.run ≠ .halted := by simp [hrun]
  rcases h.system with hsame | ⟨x, hx, -⟩ | ⟨k, -, ht⟩ | ⟨e, u, -, rfl⟩
  · obtain ⟨-, -, -, hr, -⟩ := hsame
    exact absurd (hr ▸ hh) hs
  · exact ⟨x, hx⟩
  · exact absurd ((runTask_run_mem ht).1 ▸ hh) hs
  · simp at hh

/-! ### The cycle -/

theorem step_of_fetches {w : Word} (h : s.fetches w) : step s = execFetched ((s.setIr w).setPc (s.pc + 1)) := by
  obtain ⟨hrun, hw, hpc⟩ := h
  rw [step, hrun]
  simp only [fetch_ok.mpr ⟨w, hw, hpc, rfl⟩]

/-- Settles O8: the fetch, then the decoding. -/
theorem stepRunsTheDecodedInstruction : Obligations.StepRunsTheDecodedInstruction := by
  intro s w i hf hd
  rw [step_of_fetches hf, execFetched]
  simp only [State.setPc_ir, State.setIr_ir, hd]
  rfl

/-- A running machine whose fetch crashes steps into that crash. -/
theorem step_of_fetch_error (hrun : s.run = .running) (hf : fetch s = .error t) : step s = .next t := by
  rw [step, hrun]
  simp only [hf]

/-- Settles O9: the two ways a fetch crashes, and the crash of the decoding. -/
theorem stepErrorsOfFetchAndDecode : Obligations.StepErrorsOfFetchAndDecode := by
  refine fun s hrun => ⟨fun hn => ?_, fun w hw hpc => ?_, fun w e hw hpc hd => ?_⟩
  · refine step_of_fetch_error hrun ?_
    rw [fetch, hn]
    rfl
  · refine step_of_fetch_error hrun ?_
    rw [fetch, hw]
    exact if_pos hpc
  · rw [step_of_fetches ⟨hrun, hw, hpc⟩, execFetched]
    simp only [State.setPc_ir, State.setIr_ir, hd]
    rfl

/-- A running machine steps. -/
theorem exists_step (hrun : s.run = .running) : ∃ t, step s = .next t := by
  cases hf : fetch s with
  | error u => exact ⟨u, step_of_fetch_error hrun hf⟩
  | ok u =>
    rw [step, hrun]
    simp only [hf, execFetched]
    cases hd : decode u.ir with
    | error e => exact ⟨_, rfl⟩
    | ok i => exact everyInstructionHasANextState i u

/-- Settles O10: a running machine steps, and the rules say which of them leave it halted. -/
theorem onlyRunningMachinesStep : Obligations.OnlyRunningMachinesStep := by
  refine ⟨fun s => ⟨fun ⟨t, ht⟩ => (step_next ht).1, exists_step⟩, fun s t i hrun h => ⟨?_, ?_⟩, fun s e => rfl,
    fun s hs => ?_, fun s e hs => ?_⟩
  · exact hlt_of_halted hrun (exec_iff_ends.mp h)
  · rintro ⟨x, rfl⟩
    obtain rfl : s.setRun .halted = t := Host.Outcome.next.inj h
    rfl
  · rw [step, hs]
  · rw [step, hs]

/-- Settles O7: reset's fields are given, and the empty memory has no cell. -/
theorem resetValues : Obligations.ResetValues := ⟨rfl, rfl, rfl, rfl, rfl, fun _ => rfl, rfl⟩

/-- Settles O12: the memory after reset is empty. -/
theorem resetMemoryIsCanonical : Obligations.ResetMemoryIsCanonical := State.reset_mem_wf

/-! ### The memory -/

/-- The instructions that pop. -/
def Pops (i : Instr) : Prop := (∃ n, i = .popReg n) ∨ (∃ a, i = .popMem a) ∨ i = .ret

/-- At most one cell is written. -/
def Memory.WrittenOnce (m m' : Memory) : Prop := m' = m ∨ ∃ a w, a < 65536 ∧ m' = m.write a w

theorem writtenOnce_word (m : Memory) (a w : Word) : m.WrittenOnce (m.write a.toNat w) :=
  .inr ⟨_, w, a.isLt, rfl⟩

theorem writtenOnce_field (m : Memory) {n : Nat} (hn : n ≤ 16) (a : BitVec n) (w : Word) :
    m.WrittenOnce (m.write a.toNat w) :=
  .inr ⟨_, w, Nat.lt_of_lt_of_le a.isLt (Nat.pow_le_pow_right (by decide) hn), rfl⟩

theorem writeReg_mem {q : Reg} {w : Word} (h : writeReg s q w = .ok t) : t.mem = s.mem := by
  rcases writeReg_ok h with ⟨g, rfl, rfl⟩ | ⟨rfl, -, rfl⟩ | ⟨rfl, -, rfl⟩ <;> simp

/-- An instruction writes at most one cell, and then an instruction that pops makes one NULL. -/
theorem Ends.memory {i : Instr} (h : Ends s i t) :
    s.mem.WrittenOnce t.mem ∨ (Pops i ∧ ∃ m a, s.mem.WrittenOnce m ∧ t.mem = m.erase a) := by
  cases h with
  | raise => exact .inl (.inl rfl)
  | hlt => exact .inl (.inl rfl)
  | @add d rhs v =>
    rcases addInto_eq s v (gprOf d) with ⟨q, o, w, -, h⟩ | ⟨q, o, r, w, -, h⟩ <;> exact .inl (.inl (by simp [h]))
  | div hv ht =>
    obtain ⟨o, r, ⟨q, w, rfl⟩ | ⟨q, w, rfl⟩⟩ := divInto_ok ht <;> exact .inl (.inl (by simp))
  | @cmp d rhs v =>
    obtain ⟨z, n, h⟩ := compareWith_eq s v (gprOf d)
    exact .inl (.inl (by simp [h]))
  | nand => exact .inl (.inl (writeGpr_mem _ _ _))
  | @mov d rhs v =>
    rcases moveInto_eq s v (gprOf d) with ⟨q, w, -, h⟩ | ⟨q, f, -, h⟩ <;> exact .inl (.inl (by simp [h]))
  | ld | lea => exact .inl (.inl (writeGpr_mem _ _ _))
  | stMem => exact .inl (writtenOnce_field _ (by decide) _ _)
  | stRegi => exact .inl (writtenOnce_word _ _ _)
  | popReg hq hv ht => exact .inr ⟨.inl ⟨_, rfl⟩, _, _, .inl (writeReg_mem ht), rfl⟩
  | popMem => exact .inr ⟨.inr (.inl ⟨_, rfl⟩), _, _, writtenOnce_field _ (by decide) _ _, rfl⟩
  | ret => exact .inr ⟨.inr (.inr rfl), _, _, .inl rfl, rfl⟩
  | pushImm | pushReg => exact .inl (writtenOnce_word _ _ _)
  | int ht => exact .inl (.inl (runTask_run_mem ht).2)
  | jump | stay | branch => exact .inl (.inl rfl)
  | call | callCrash => exact .inl (writtenOnce_word _ _ _)

section
variable {m m' : Memory}

theorem Memory.WrittenOnce.wf (h : m.WrittenOnce m') (hm : m.wf) : m'.wf := by
  rcases h with rfl | ⟨a, w, ha, rfl⟩
  · exact hm
  · exact Memory.wf_write hm ha w

/-- A write makes no cell NULL. -/
theorem Memory.WrittenOnce.read_ne_none (h : m.WrittenOnce m') {a : Nat} (ha : m.read a ≠ none) :
    m'.read a ≠ none := by
  rcases h with rfl | ⟨b, w, -, rfl⟩
  · exact ha
  · rw [Memory.read_write]
    split
    · simp
    · exact ha

end

theorem Ends.inv {i : Instr} (h : Ends s i t) (hs : s.Inv) : t.Inv := by
  rcases h.memory with hw | ⟨-, m, a, hw, ht⟩
  · exact hw.wf hs
  · rw [State.Inv, ht]
    exact Memory.wf_erase (hw.wf hs) a

/-- The fetch leaves the memory and the output alone, whether or not it crashes. -/
theorem fetch_mem_out (h : fetch s = .ok t ∨ fetch s = .error t) : t.mem = s.mem ∧ t.out = s.out := by
  unfold fetch at h
  split at h
  · obtain rfl : raise .segfault s = t := by simpa using h
    exact ⟨rfl, rfl⟩
  · split at h
    · obtain rfl : raise .segfault (s.setIr _) = t := by simpa using h
      exact ⟨rfl, rfl⟩
    · obtain rfl : (s.setIr _).setPc (s.pc + 1) = t := by simpa using h
      exact ⟨rfl, rfl⟩

theorem inv_of_mem_eq (h : t.mem = s.mem) (hs : s.Inv) : t.Inv := by rwa [State.Inv, h]

/-- Settles O11: the fetch leaves the memory alone, and an instruction writes or erases cells of the address space. -/
theorem stepKeepsMemoryCanonical : Obligations.StepKeepsMemoryCanonical := by
  intro s t hs h
  obtain ⟨-, hcrash | ⟨u, hu, ⟨e, -, rfl⟩ | ⟨i, -, hexec⟩⟩⟩ := step_next h
  · exact inv_of_mem_eq (fetch_mem_out (.inr hcrash)).1 hs
  · exact inv_of_mem_eq (s := s) (t := raise _ u) (fetch_mem_out (.inl hu)).1 hs
  · exact (exec_iff_ends.mp hexec).inv (inv_of_mem_eq (fetch_mem_out (.inl hu)).1 hs)

/-- Settles O55: what becomes NULL is the one cell that a pop erases. -/
theorem cellsBecomeNullOnlyByPop : Obligations.CellsBecomeNullOnlyByPop := by
  intro i s t hs h
  rcases (exec_iff_ends.mp h).memory with hw | ⟨hpop, m, c, hw, ht⟩
  · exact ⟨fun a ha hn => absurd hn (hw.read_ne_none ha), fun a b ha hn => absurd hn (hw.read_ne_none ha)⟩
  · have hc (a : Nat) (ha : s.mem.read a ≠ none) (hn : t.mem.read a = none) : a = c := by
      by_contra hne
      rw [ht, Memory.read_erase (hw.wf hs), if_neg hne] at hn
      exact hw.read_ne_none ha hn
    exact ⟨fun _ _ _ => hpop, fun a b ha hna hb hnb => (hc a ha hna).trans (hc b hb hnb).symm⟩

/-! ### The output -/

theorem Ends.output {i : Instr} (h : Ends s i t) : ∃ es, t.out = s.out ++ es := by
  rcases h.system with hsame | ⟨x, -, rfl⟩ | ⟨k, -, ht⟩ | ⟨e, u, hsame, rfl⟩
  · obtain ⟨-, -, -, -, hout, -⟩ := hsame
    exact ⟨[], by rw [hout, List.append_nil]⟩
  · exact ⟨[], (List.append_nil _).symm⟩
  · exact runTask_out ht
  · obtain ⟨-, -, -, -, hout, -⟩ := hsame
    exact ⟨[], by rw [raise_out, hout, List.append_nil]⟩

/-- Settles O58: the fetch prints nothing, and an instruction appends. -/
theorem outputOnlyGrows : Obligations.OutputOnlyGrows := by
  intro s t h
  obtain ⟨-, hcrash | ⟨u, hu, ⟨e, -, rfl⟩ | ⟨i, -, hexec⟩⟩⟩ := step_next h
  · exact ⟨[], by rw [(fetch_mem_out (.inr hcrash)).2, List.append_nil]⟩
  · exact ⟨[], by rw [raise_out, (fetch_mem_out (.inl hu)).2, List.append_nil]⟩
  · rw [← (fetch_mem_out (.inl hu)).2]
    exact (exec_iff_ends.mp hexec).output

end

end Sys2Proof.Machine
end

section
/-!
PROOFS. O54, O56, O57: who writes each flag, who raises each error, and what a crash leaves. The rules are gone through
once for the flags and once for the errors.
-/

namespace Sys2Proof.Machine

section
variable {s t : State}

/-! ### The flags -/

theorem sameFlags_refl (s : State) : s.sameFlags s := by simp [State.sameFlags]

theorem sameFlags_writeGpr (s : State) (g : Gpr) (w : Word) : s.sameFlags (writeGpr s g w) := by
  simp [State.sameFlags]

theorem sameFlags_moveInto (s : State) (v : Value) (g : Gpr) : s.sameFlags (moveInto s v g) := by
  rcases moveInto_eq s v g with ⟨q, w, -, h⟩ | ⟨q, f, -, h⟩ <;> simp [h, State.sameFlags]

theorem sameFlags_writeReg {q : Reg} {w : Word} (h : writeReg s q w = .ok t) : s.sameFlags t := by
  rcases writeReg_ok h with ⟨g, rfl, rfl⟩ | ⟨rfl, -, rfl⟩ | ⟨rfl, -, rfl⟩ <;> simp [State.sameFlags]

theorem sameFlags_dropTop (h : s.sameFlags t) : s.sameFlags (dropTop t) := h

/-- Only ADD, DIV, CMP and INT write a flag. -/
theorem Ends.flags {i : Instr} (h : Ends s i t) :
    s.sameFlags t ∨ (∃ d rhs v, i = .add d rhs ∧ t = addInto s v (gprOf d)) ∨
    (∃ d rhs v, i = .div d rhs ∧ divInto s v (gprOf d) = .ok t) ∨
    (∃ d rhs v, i = .cmp d rhs ∧ t = compareWith s v (gprOf d)) ∨
    ∃ k, i = .int k ∧ runTask s (intTask (sext8 k).toInt) = .ok t := by
  cases h with
  | add => exact .inr (.inl ⟨_, _, _, rfl, rfl⟩)
  | div hv ht => exact .inr (.inr (.inl ⟨_, _, _, rfl, ht⟩))
  | cmp => exact .inr (.inr (.inr (.inl ⟨_, _, _, rfl, rfl⟩)))
  | int ht => exact .inr (.inr (.inr (.inr ⟨_, rfl, ht⟩)))
  | nand => exact .inl (sameFlags_writeGpr _ _ _)
  | mov => exact .inl (sameFlags_moveInto _ _ _)
  | ld | lea => exact .inl (sameFlags_writeGpr _ _ _)
  | popReg hq hv ht => exact .inl (sameFlags_dropTop (sameFlags_writeReg ht))
  | raise | hlt | stMem | stRegi | popMem | ret | pushImm | pushReg | jump | stay | branch | call | callCrash =>
    exact .inl (sameFlags_refl s)

/-- A task writes no flag, or it is an operation on one. -/
theorem runTask_flags {k : IntTask} (h : runTask s k = .ok t) :
    s.sameFlags t ∨ ∃ f op, k = .flag f op ∧ t = applyFlag s op f := by
  rcases runTask_ok h with ⟨v, es, cs, ls, d, rfl, -⟩ | hf | ⟨-, rfl⟩ | ⟨-, rfl⟩ | ⟨b, -, rfl⟩
  case inr.inl => exact .inr hf
  all_goals exact .inl (by simp [State.sameFlags])

/-- The three codes of each flag. -/
theorem int_of_flag {k : BitVec 8} {f : Flag} {op : FlagOp} (h : intTask (sext8 k).toInt = .flag f op) :
    match f with
    | .zero => Instr.int k ∈ [.int 11#8, .int 12#8, .int 13#8]
    | .overflow => Instr.int k ∈ [.int 21#8, .int 22#8, .int 23#8]
    | .remainder => Instr.int k ∈ [.int 31#8, .int 32#8, .int 33#8]
    | .sign => Instr.int k ∈ [.int 41#8, .int 42#8, .int 43#8] := by
  cases f with
  | zero =>
    cases op with
    | set => simp [code_of_intTask (c := 11#8) h rfl]
    | unset => simp [code_of_intTask (c := 12#8) h rfl]
    | invert => simp [code_of_intTask (c := 13#8) h rfl]
  | overflow =>
    cases op with
    | set => simp [code_of_intTask (c := 21#8) h rfl]
    | unset => simp [code_of_intTask (c := 22#8) h rfl]
    | invert => simp [code_of_intTask (c := 23#8) h rfl]
  | remainder =>
    cases op with
    | set => simp [code_of_intTask (c := 31#8) h rfl]
    | unset => simp [code_of_intTask (c := 32#8) h rfl]
    | invert => simp [code_of_intTask (c := 33#8) h rfl]
  | sign =>
    cases op with
    | set => simp [code_of_intTask (c := 41#8) h rfl]
    | unset => simp [code_of_intTask (c := 42#8) h rfl]
    | invert => simp [code_of_intTask (c := 43#8) h rfl]

theorem gprOf_float {d : BitVec 3} {q : FloatReg} (h : gprOf d = .float q) : 6 ≤ d.toNat := by
  revert d
  cases q <;> decide

/-- An ADD writes O, and R with a float destination. -/
theorem flags_addInto (s : State) (v : Value) (g : Gpr) :
    (addInto s v g).flagZ = s.flagZ ∧ (addInto s v g).flagS = s.flagS ∧
    ((addInto s v g).flagR ≠ s.flagR → ∃ q, g = .float q) := by
  rcases addInto_eq s v g with ⟨q, o, w, -, h⟩ | ⟨q, o, r, w, hg, h⟩
  · simp [h]
  · exact ⟨by simp [h], by simp [h], fun _ => ⟨q, hg⟩⟩

/-- A DIV writes O and R. -/
theorem flags_divInto {v : Value} {g : Gpr} (h : divInto s v g = .ok t) :
    t.flagZ = s.flagZ ∧ t.flagS = s.flagS := by
  obtain ⟨o, r, ⟨q, w, rfl⟩ | ⟨q, w, rfl⟩⟩ := divInto_ok h <;> simp

/-- A CMP writes Z and S. -/
theorem flags_compareWith (s : State) (v : Value) (g : Gpr) :
    (compareWith s v g).flagO = s.flagO ∧ (compareWith s v g).flagR = s.flagR := by
  obtain ⟨z, n, h⟩ := compareWith_eq s v g
  simp [h]

/-- Settles O54: the writers of the flags, and what each of them writes. -/
theorem flagWriters : Obligations.FlagWriters := by
  intro i s t h
  rcases (exec_iff_ends.mp h).flags with ⟨hz, hs, ho, hr⟩ | ⟨d, rhs, v, rfl, rfl⟩ | ⟨d, rhs, v, rfl, ht⟩ |
    ⟨d, rhs, v, rfl, rfl⟩ | ⟨k, rfl, ht⟩
  · exact ⟨absurd hz, absurd hs, absurd ho, absurd hr⟩
  · obtain ⟨hz, hs, hr⟩ := flags_addInto s v (gprOf d)
    refine ⟨absurd hz, absurd hs, fun _ => .inl ⟨d, rhs, .inl rfl⟩, fun hne => ?_⟩
    obtain ⟨q, hq⟩ := hr hne
    exact .inl ⟨d, rhs, .inr ⟨gprOf_float hq, rfl⟩⟩
  · obtain ⟨hz, hs⟩ := flags_divInto ht
    exact ⟨absurd hz, absurd hs, fun _ => .inl ⟨d, rhs, .inr rfl⟩, fun _ => .inl ⟨d, rhs, .inl rfl⟩⟩
  · obtain ⟨ho, hr⟩ := flags_compareWith s v (gprOf d)
    exact ⟨fun _ => .inl ⟨d, rhs, rfl⟩, fun _ => .inl ⟨d, rhs, rfl⟩, absurd ho, absurd hr⟩
  · rcases runTask_flags ht with ⟨hz, hs, ho, hr⟩ | ⟨f, op, hk, rfl⟩
    · exact ⟨absurd hz, absurd hs, absurd ho, absurd hr⟩
    · have hcode := int_of_flag hk
      cases f with
      | zero => exact ⟨fun _ => .inr hcode, absurd rfl, absurd rfl, absurd rfl⟩
      | sign => exact ⟨absurd rfl, fun _ => .inr hcode, absurd rfl, absurd rfl⟩
      | overflow => exact ⟨absurd rfl, absurd rfl, fun _ => .inr hcode, absurd rfl⟩
      | remainder => exact ⟨absurd rfl, absurd rfl, absurd rfl, fun _ => .inr hcode⟩

/-! ### The errors -/

/-- What a running machine that crashes has done: raised an error with nothing changed, or pushed the return address
and then refused the register it should have jumped to. -/
theorem Ends.crash {i : Instr} {e : MachineError} (hrun : s.run = .running) (h : Ends s i t)
    (he : t.run = .crashed e) :
    (Raises s i e ∧ t = Machine.raise e s) ∨
    (e = .segfault ∧ s.pushRet = true ∧ ∃ b n, i = .bcc b (.reg n) ∧ taken s b) := by
  have kept (hr : t.run = s.run) : False := by simp [he, hrun] at hr
  have system (hsame : s.sameSystem t) : False := by
    obtain ⟨-, -, -, hr, -⟩ := hsame
    exact kept hr
  cases h with
  | raise h =>
    obtain rfl := RunState.crashed.inj he
    exact .inl ⟨h, rfl⟩
  | callCrash hn hb hr hq hm =>
    exact .inr ⟨(RunState.crashed.inj he).symm, hr, _, _, rfl, hb⟩
  | hlt => cases he
  | add => exact (system (sameSystem_addInto _ _ _)).elim
  | div hv ht => exact (system (sameSystem_divInto ht)).elim
  | cmp => exact (system (sameSystem_compareWith _ _ _)).elim
  | nand => exact (system (sameSystem_writeGpr _ _ _)).elim
  | mov => exact (system (sameSystem_moveInto _ _ _)).elim
  | ld | lea => exact (system (sameSystem_writeGpr _ _ _)).elim
  | popReg hq hv ht => exact (system (sameSystem_dropTop (sameSystem_writeReg ht))).elim
  | int ht => exact (kept (runTask_run_mem ht).1).elim
  | stMem | stRegi | popMem | ret | pushImm | pushReg | jump | stay | branch | call => exact (kept rfl).elim

/-- Settles O57: the one crash that leaves a trace is that of a branch to a register, after its push. -/
theorem errorsArePrecise : Obligations.ErrorsArePrecise := by
  intro i s t e hrun h he
  rcases (exec_iff_ends.mp h).crash hrun he with ⟨-, rfl⟩ | ⟨-, hr, b, n, rfl, -⟩
  · exact .inl rfl
  · exact .inr ⟨hr, b, n, rfl⟩

/-- A right side raises InvalidRegister for its field, or Segfault for its address. -/
theorem rhsValue_error {rhs : Rhs} {e : MachineError} (h : rhsValue s rhs = .error e) :
    (e = .invalidRegister ∧ ∃ n, (rhs = .reg n ∨ rhs = .regi n) ∧ 10 ≤ n.toNat) ∨
    (e = .segfault ∧ ((∃ n, rhs = .regi n) ∨ ∃ a, rhs = .memi a)) := by
  have access {p : Int} {e : MachineError} (hp : (memRead s p).map Value.word = .error e) : e = .segfault := by
    cases hm : memRead s p with
    | ok w => simp [hm, Except.map] at hp
    | error e' =>
      obtain rfl : e' = e := by simpa [hm, Except.map] using hp
      exact (memRead_error.mp hm).1
  cases rhs with
  | imm i => cases h
  | reg n =>
    rcases regOf_cases n with ⟨hn, hq⟩ | ⟨-, q, hq⟩
    · simp only [rhsValue, hq] at h
      exact .inl ⟨(Except.error.inj h).symm, n, .inl rfl, hn⟩
    · simp [rhsValue, hq, Except.map] at h
  | regi n =>
    rcases regOf_cases n with ⟨hn, hq⟩ | ⟨-, q, hq⟩
    · simp only [rhsValue, hq] at h
      exact .inl ⟨(Except.error.inj h).symm, n, .inr rfl, hn⟩
    · simp only [rhsValue, hq] at h
      exact .inr ⟨access h, .inl ⟨n, rfl⟩⟩
  | memi a =>
    refine .inr ⟨?_, .inr ⟨a, rfl⟩⟩
    simp only [rhsValue] at h
    cases hp : memRead s (a.toNat : Int) with
    | error e' =>
      obtain rfl : e' = e := by simpa [hp, Except.bind] using h
      exact (memRead_error.mp hp).1
    | ok p => exact access (by simpa only [hp, Except.bind] using h)

/-- The register field of a right side is the register field of the instruction. -/
theorem regField_rhs {f : BitVec 3 → Rhs → Instr} {d : BitVec 3} {rhs : Rhs} {n : BitVec 4}
    (hf : f ∈ [Instr.add, Instr.div, Instr.cmp, Instr.nand, Instr.mov]) (hr : rhs = .reg n ∨ rhs = .regi n) :
    regField (f d rhs) = some n := by
  simp only [List.mem_cons, List.not_mem_nil, or_false] at hf
  rcases hf with rfl | rfl | rfl | rfl | rfl <;> rcases hr with rfl | rfl <;> rfl

/-- Only pc and sp refuse a word, and only with Segfault. -/
theorem writeReg_error {q : Reg} {w : Word} {e : MachineError} (h : writeReg s q w = .error e) :
    e = .segfault ∧ (q = .pc ∨ q = .sp) := by
  cases q with
  | gpr g => cases h
  | pc => exact ⟨(setpc_error.mp h).1, .inl rfl⟩
  | sp => exact ⟨(setsp_error.mp h).1, .inr rfl⟩

theorem regOf_eq_pc {n : BitVec 4} (h : regOf n = .ok .pc) : n = 8#4 := by
  revert n
  decide

theorem regOf_eq_sp {n : BitVec 4} (h : regOf n = .ok .sp) : n = 9#4 := by
  revert n
  decide

/-- The sources of O56, as one relation. -/
def Source (s : State) (i : Instr) : MachineError → Prop
  | .stackUnderflow => s.mem.read s.sp.toNat = none ∧ Pops i ∨ i = .int (-6)
  | .segfault =>
      (∃ f ∈ [Instr.add, Instr.div, Instr.cmp, Instr.nand, Instr.mov], ∃ d,
        (∃ n, i = f d (.regi n)) ∨ ∃ a, i = f d (.memi a)) ∨
      (∃ d a, i = .ld d a) ∨ (∃ n r, i = .stRegi n r) ∨ (∃ n, i = .jmpReg n) ∨
      (∃ b n, i = Instr.bcc b (.reg n) ∧ taken s b) ∨
      i ∈ [.popReg 8, .popReg 9, .ret, .int (-5), .int 8, .int 60, .int 61]
  | .illegalInstruction => ∃ c : BitVec 8, i = .int c ∧ (c = -4 ∨ c.toInt ∉ listedCodes)
  | .divideByZero => (∃ d rhs, i = Instr.div d rhs) ∨ i = .int (-3)
  | .invalidRegister => (∃ n, regField i = some n ∧ 10 ≤ n.toNat) ∨ i = .int (-2)
  | .stackOverflow => s.pushOverflows ∧
      ((∃ k, i = .pushImm k) ∨ (∃ n, i = .pushReg n) ∨ (s.pushRet = true ∧ ∃ b tg, i = Instr.bcc b tg ∧ taken s b)) ∨
      i = .int (-1)

theorem source_rhs {f : BitVec 3 → Rhs → Instr} {d : BitVec 3} {rhs : Rhs} {e : MachineError}
    (hf : f ∈ [Instr.add, Instr.div, Instr.cmp, Instr.nand, Instr.mov]) (he : rhsValue s rhs = .error e) :
    Source s (f d rhs) e := by
  rcases rhsValue_error he with ⟨rfl, n, hr, hn⟩ | ⟨rfl, ⟨n, rfl⟩ | ⟨a, rfl⟩⟩
  · exact .inl ⟨n, regField_rhs hf hr, hn⟩
  · exact .inl ⟨f, hf, d, .inl ⟨n, rfl⟩⟩
  · exact .inl ⟨f, hf, d, .inr ⟨a, rfl⟩⟩

theorem source_popReg {n : BitVec 4} {q : Reg} {v : Word} {e : MachineError} (hq : regOf n = .ok q)
    (he : writeReg s q v = .error e) : Source s (.popReg n) e := by
  obtain ⟨rfl, rfl | rfl⟩ := writeReg_error he
  · obtain rfl := regOf_eq_pc hq
    exact .inr (.inr (.inr (.inr (.inr (by decide)))))
  · obtain rfl := regOf_eq_sp hq
    exact .inr (.inr (.inr (.inr (.inr (by decide)))))

/-- INT raises what its code says: the code of the error, one outside the table, or one that uses an address. -/
theorem source_int {k : BitVec 8} {e : MachineError} (he : runTask s (intTask (sext8 k).toInt) = .error e) :
    Source s (.int k) e := by
  rcases runTask_error he with hk | ⟨hk, rfl⟩ | ⟨rfl, hk⟩
  · cases e with
    | stackUnderflow => exact .inr (congrArg Instr.int (code_of_intTask (c := -6) hk rfl))
    | segfault =>
      obtain rfl := code_of_intTask (c := -5) hk rfl
      exact .inr (.inr (.inr (.inr (.inr (by decide)))))
    | illegalInstruction => exact ⟨k, rfl, .inl (code_of_intTask (c := -4) hk rfl)⟩
    | divideByZero => exact .inr (congrArg Instr.int (code_of_intTask (c := -3) hk rfl))
    | invalidRegister => exact .inr (congrArg Instr.int (code_of_intTask (c := -2) hk rfl))
    | stackOverflow => exact .inr (congrArg Instr.int (code_of_intTask (c := -1) hk rfl))
  · refine ⟨k, rfl, .inr fun hl => ?_⟩
    have hc := taskCode_intTask _ hl
    rw [← sext8_toInt, hk] at hc
    cases hc
  · refine .inr (.inr (.inr (.inr (.inr ?_))))
    rcases hk with hk | hk | hk
    · simp [code_of_intTask (c := 8) hk rfl]
    · simp [code_of_intTask (c := 60) hk rfl]
    · simp [code_of_intTask (c := 61) hk rfl]

/-- A place whose word has bit 15 set is in a register. -/
theorem target_of_msb {tg : Target} {p : Place} (hp : placeOf tg = .ok p) (hm : (placeWord s p).msb = true) :
    ∃ n, tg = .reg n := by
  rcases placeOf_ok hp with ⟨a, rfl, rfl⟩ | ⟨n, r, rfl, -, -⟩
  · rw [placeWord, msb_addr] at hm
    cases hm
  · exact ⟨n, rfl⟩

theorem Raises.source {i : Instr} {e : MachineError} (h : Raises s i e) : Source s i e := by
  cases h with
  | rhs hf he => exact source_rhs hf he
  | divisor hv he =>
    obtain rfl := divInto_error he
    exact .inl ⟨_, _, rfl⟩
  | field hi hn => exact .inl ⟨_, hi, hn⟩
  | load => exact .inr (.inl ⟨_, _, rfl⟩)
  | store => exact .inr (.inr (.inl ⟨_, _, rfl⟩))
  | popRegNull hq hn => exact .inl ⟨hn, .inl ⟨_, rfl⟩⟩
  | popMemNull hn => exact .inl ⟨hn, .inr (.inl ⟨_, rfl⟩)⟩
  | retNull hn => exact .inl ⟨hn, .inr (.inr rfl)⟩
  | popReg hq hv he => exact source_popReg hq he
  | ret => exact .inr (.inr (.inr (.inr (.inr (by decide)))))
  | pushImm ho => exact .inl ⟨ho, .inl ⟨_, rfl⟩⟩
  | pushReg hq ho => exact .inl ⟨ho, .inr (.inl ⟨_, rfl⟩)⟩
  | int he => exact source_int he
  | jump hp hm =>
    obtain ⟨n, rfl⟩ := target_of_msb hp hm
    exact .inr (.inr (.inr (.inl ⟨n, rfl⟩)))
  | branch hp hb hr hm =>
    obtain ⟨n, rfl⟩ := target_of_msb hp hm
    exact .inr (.inr (.inr (.inr (.inl ⟨_, n, rfl, hb⟩))))
  | call hp hb hr ho => exact .inl ⟨ho, .inr (.inr ⟨hr, _, _, rfl, hb⟩)⟩

/-- Settles O56: the sources of each way to an error, and of the crash after a push. -/
theorem errorSources : Obligations.ErrorSources := by
  intro i s t e hrun h he
  have hsource : Source s i e := by
    rcases (exec_iff_ends.mp h).crash hrun he with ⟨hr, -⟩ | ⟨rfl, -, b, n, rfl, hb⟩
    · exact hr.source
    · exact .inr (.inr (.inr (.inr (.inl ⟨b, n, rfl, hb⟩))))
  cases e <;> exact hsource

end

end Sys2Proof.Machine
end

section
/-!
PROOFS. O51, O53 (10_state.md R17, R18): who reads push_ret and the flags. The four flags and push_ret together are the
control part of a state. Replacing it changes nothing but the control part of what an instruction leaves, as long as
branches decide as before; and each flag, and push_ret, depends on no other part of the control. Both statements replace
a part of it.
-/

namespace Sys2Proof.Machine

/-- The four flags and push_ret. -/
structure Control where
  zero : Bool
  sign : Bool
  overflow : Bool
  remainder : Bool
  pushRet : Bool

/-- The control part replaced. -/
def State.withControl (s : State) (c : Control) : State :=
  { s with flagZ := c.zero, flagS := c.sign, flagO := c.overflow, flagR := c.remainder, pushRet := c.pushRet }

/-- `c'` is to `t` as `c` is to `s`: what `c` did not change for `s`, `c'` does not change for `t`. -/
structure Tracks (s : State) (c : Control) (t : State) (c' : Control) : Prop where
  zero : c.zero = s.flagZ → c'.zero = t.flagZ
  sign : c.sign = s.flagS → c'.sign = t.flagS
  overflow : c.overflow = s.flagO → c'.overflow = t.flagO
  remainder : c.remainder = s.flagR → c'.remainder = t.flagR
  pushRet : c.pushRet = s.pushRet → c'.pushRet = t.pushRet

/-- An instruction that leaves the flags and push_ret alone leaves a replaced control part. -/
theorem tracks_of_same {s t : State} (c : Control) (hf : s.sameFlags t) (hp : t.pushRet = s.pushRet) :
    Tracks s c t c := by
  obtain ⟨hz, hs, ho, hr⟩ := hf
  exact ⟨hz.symm ▸ id, hs.symm ▸ id, ho.symm ▸ id, hr.symm ▸ id, hp.symm ▸ id⟩

section
variable (s : State) (c : Control)

/-! ### What is read does not depend on the control part -/

@[simp] theorem withControl_getWord (q : WordReg) : (s.withControl c).getWord q = s.getWord q := by cases q <;> rfl

@[simp] theorem withControl_getFloat (q : FloatReg) : (s.withControl c).getFloat q = s.getFloat q := by
  cases q <;> rfl

@[simp] theorem regValue_withControl (r : Reg) : regValue (s.withControl c) r = regValue s r := by
  rcases r with (r | r) | _ | _
  · exact congrArg Value.word (withControl_getWord s c r)
  · exact congrArg Value.float (withControl_getFloat s c r)
  · rfl
  · rfl

@[simp] theorem readReg_withControl (r : Reg) : readReg (s.withControl c) r = readReg s r :=
  congrArg Value.asWord (regValue_withControl s c r)

@[simp] theorem memRead_withControl (a : Int) : memRead (s.withControl c) a = memRead s a := rfl

@[simp] theorem rhsValue_withControl (rhs : Rhs) : rhsValue (s.withControl c) rhs = rhsValue s rhs := by
  have hreg : regValue (s.withControl c) = regValue s := funext (regValue_withControl s c)
  cases rhs <;> simp [rhsValue, hreg]

@[simp] theorem placeWord_withControl (p : Place) : placeWord (s.withControl c) p = placeWord s p := by
  cases p <;> simp [placeWord]

theorem setSp_withControl (w : Word) : (s.withControl c).setSp w = (s.setSp w).withControl c := rfl

/-! ### What is written is written beside the control part -/

theorem setWord_withControl (q : WordReg) (w : Word) :
    (s.withControl c).setWord q w = (s.setWord q w).withControl c := by cases q <;> rfl

theorem setFloat_withControl (q : FloatReg) (f : FloatWord) :
    (s.withControl c).setFloat q f = (s.setFloat q f).withControl c := by cases q <;> rfl

theorem writeGpr_withControl (g : Gpr) (w : Word) :
    writeGpr (s.withControl c) g w = (writeGpr s g w).withControl c := by
  cases g with
  | word q => exact setWord_withControl s c q w
  | float q => exact setFloat_withControl s c q (i2f w)

theorem nandInto_withControl (v : Value) (g : Gpr) :
    nandInto (s.withControl c) v g = (nandInto s v g).withControl c := by
  rw [nandInto, readReg_withControl, writeGpr_withControl, nandInto]

theorem moveInto_pushRet (v : Value) (g : Gpr) : (moveInto s v g).pushRet = s.pushRet := by
  obtain ⟨-, -, h, -⟩ := sameSystem_moveInto s v g
  exact h

theorem moveInto_withControl (v : Value) (g : Gpr) :
    moveInto (s.withControl c) v g = (moveInto s v g).withControl c := by
  cases g with
  | word q => exact setWord_withControl s c q v.asWord
  | float q => exact setFloat_withControl s c q v.asFloat

theorem writeReg_pushRet {s t : State} {r : Reg} {w : Word} (h : writeReg s r w = .ok t) : t.pushRet = s.pushRet := by
  obtain ⟨-, -, hp, -⟩ := sameSystem_writeReg h
  exact hp

/-- A register write does or refuses the same. -/
theorem writeReg_withControl (r : Reg) (w : Word) :
    writeReg (s.withControl c) r w = (writeReg s r w).map (State.withControl · c) := by
  cases r with
  | gpr g => exact congrArg Except.ok (writeGpr_withControl s c g w)
  | pc =>
    simp only [writeReg, setpc]
    split <;> rfl
  | sp =>
    simp only [writeReg, setsp]
    split <;> rfl

end

/-! ### What computes flags -/

section
variable {s t : State} (c : Control)

/-- The flags after float arithmetic are free, but each depends on itself alone of the flags. -/
def floatControl (op : FloatOp) (a b : FloatWord) : Control :=
  { c with overflow := Config.floatFlagO op a b c.overflow, remainder := Config.floatFlagR op a b c.remainder }

theorem setOverflow_withControl (s : State) (x : Int) :
    setOverflow (s.withControl c) x = (setOverflow s x).withControl { c with overflow := overflows x } := rfl

theorem setR_withControl (s : State) (b : Bool) :
    (s.withControl c).setR b = (s.setR b).withControl { c with remainder := b } := rfl

theorem floatFlags_withControl (s : State) (op : FloatOp) (a b : FloatWord) :
    floatFlags (s.withControl c) op a b = (floatFlags s op a b).withControl (floatControl c op a b) := rfl

theorem addInto_withControl (v : Value) (g : Gpr) :
    ∃ c', addInto (s.withControl c) v g = (addInto s v g).withControl c' ∧ Tracks s c (addInto s v g) c' := by
  cases g with
  | word q =>
    refine ⟨{ c with overflow := overflows ((s.getWord q).toInt + v.asWord.toInt) }, ?_, ?_⟩
    · simp only [addInto, withControl_getWord, setOverflow_withControl, setWord_withControl]
    · constructor <;> simp [addInto, setOverflow]
  | float q =>
    refine ⟨floatControl c .add (s.getFloat q) v.asFloat, ?_, ?_⟩
    · simp only [addInto, withControl_getFloat, floatFlags_withControl, setFloat_withControl]
    · constructor <;> simp +contextual [addInto, floatFlags, floatControl]

theorem divInto_withControl {v : Value} {g : Gpr} (h : divInto s v g = .ok t) :
    ∃ c', divInto (s.withControl c) v g = .ok (t.withControl c') ∧ Tracks s c t c' := by
  cases g with
  | word q =>
    simp only [divInto, withControl_getWord] at h ⊢
    split at h
    case isTrue => cases h
    case isFalse hb =>
      obtain rfl := Except.ok.inj h
      rw [if_neg hb]
      refine ⟨{ c with
        overflow := overflows (idiv (s.getWord q).toInt v.asWord.toInt)
        remainder := hasRemainder (s.getWord q).toInt v.asWord.toInt }, ?_, ?_⟩
      · rw [setOverflow_withControl, setR_withControl, setWord_withControl]
      · constructor <;> simp [setOverflow]
  | float q =>
    simp only [divInto, withControl_getFloat] at h ⊢
    split at h
    case isTrue => cases h
    case isFalse hb =>
      obtain rfl := Except.ok.inj h
      rw [if_neg hb]
      refine ⟨floatControl c .div (s.getFloat q) v.asFloat, ?_, ?_⟩
      · rw [floatFlags_withControl, setFloat_withControl]
      · constructor <;> simp +contextual [floatFlags, floatControl]

/-- A division that raises does so whatever the control part. -/
theorem divInto_error_withControl {v : Value} {g : Gpr} {e : MachineError} (h : divInto s v g = .error e) :
    divInto (s.withControl c) v g = .error e := by
  cases hd : divInto (s.withControl c) v g with
  | error e' => rw [divInto_error h, divInto_error hd]
  | ok u =>
    obtain ⟨c', hc, -⟩ := divInto_withControl ⟨s.flagZ, s.flagS, s.flagO, s.flagR, s.pushRet⟩ hd
    have hs : (s.withControl c).withControl ⟨s.flagZ, s.flagS, s.flagO, s.flagR, s.pushRet⟩ = s := rfl
    rw [hs, h] at hc
    cases hc

theorem compareWith_withControl (s : State) (v : Value) (g : Gpr) :
    ∃ c', compareWith (s.withControl c) v g = (compareWith s v g).withControl c' ∧
      Tracks s c (compareWith s v g) c' := by
  cases g with
  | word q =>
    refine ⟨{ c with sign := decide ((s.getWord q).toInt < v.asWord.toInt),
                     zero := decide (s.getWord q = v.asWord) }, ?_, ?_⟩
    · rw [compareWith, withControl_getWord]
      rfl
    · constructor <;> simp [compareWith, compareWords]
  | float q =>
    refine ⟨{ c with sign := Config.flt (s.getFloat q) v.asFloat,
                     zero := Config.feq (s.getFloat q) v.asFloat }, ?_, ?_⟩
    · rw [compareWith, withControl_getFloat]
      rfl
    · constructor <;> simp [compareWith, compareFloats]

/-- A flag operated on, in the control part. -/
def Control.applyFlag (op : FlagOp) : Flag → Control
  | .zero => { c with zero := op.apply c.zero }
  | .overflow => { c with overflow := op.apply c.overflow }
  | .remainder => { c with remainder := op.apply c.remainder }
  | .sign => { c with sign := op.apply c.sign }

theorem applyFlag_withControl (s : State) (op : FlagOp) (f : Flag) :
    Machine.applyFlag (s.withControl c) op f = (Machine.applyFlag s op f).withControl (c.applyFlag op f) ∧
    Tracks s c (Machine.applyFlag s op f) (c.applyFlag op f) := by
  cases f <;> refine ⟨rfl, ?_⟩ <;> constructor <;> simp +contextual [Machine.applyFlag, Control.applyFlag]

theorem printMemory_withControl (s : State) :
    printMemory (s.withControl c) = (printMemory s).map (State.withControl · c) := by
  simp only [printMemory, withControl_getWord]
  split
  · rfl
  · split <;> rfl

theorem nextChar_withControl (s : State) : (nextChar (s.withControl c)).1 = (nextChar s).1 := by
  have hc : (s.withControl c).inChars = s.inChars := rfl
  rw [nextChar, nextChar, hc]
  cases s.inChars <;> rfl

theorem nextLine_withControl (s : State) : (nextLine (s.withControl c)).1 = (nextLine s).1 := by
  have hl : (s.withControl c).inLines = s.inLines := rfl
  rw [nextLine, nextLine, hl]
  cases s.inLines <;> rfl

theorem readChar_withControl (s : State) : readChar (s.withControl c) = (readChar s).withControl c := by
  rw [readChar_eq, readChar_eq, nextChar_withControl]
  rfl

theorem readLine_withControl (s : State) : readLine (s.withControl c) = (readLine s).withControl c := by
  rw [readLine_eq, readLine_eq, nextLine_withControl]
  rfl

/-- A task that ends does the same beside the control part, and to it what it does to the state's own. -/
theorem runTask_withControl {k : IntTask} (h : runTask s k = .ok t) :
    ∃ c', runTask (s.withControl c) k = .ok (t.withControl c') ∧ Tracks s c t c' := by
  have beside (hr : runTask (s.withControl c) k = (runTask s k).map (State.withControl · c)) (hf : s.sameFlags t)
      (hp : t.pushRet = s.pushRet) : ∃ c', runTask (s.withControl c) k = .ok (t.withControl c') ∧ Tracks s c t c' :=
    ⟨c, by rw [hr, h]; rfl, tracks_of_same c hf hp⟩
  have flags : s.sameFlags t ∨ ∃ f op, k = .flag f op ∧ t = applyFlag s op f := runTask_flags h
  have pushRet : t.pushRet = s.pushRet ∨ k = .setPushRet t.pushRet := runTask_pushRet h
  cases k with
  | raises => cases h
  | unlisted => cases h
  | flag f op =>
    obtain rfl := Except.ok.inj h
    obtain ⟨ha, ht⟩ := applyFlag_withControl c s op f
    exact ⟨_, congrArg Except.ok ha, ht⟩
  | setPushRet b =>
    obtain rfl := Except.ok.inj h
    exact ⟨{ c with pushRet := b }, rfl, ⟨id, id, id, id, fun _ => rfl⟩⟩
  | printMem => exact beside (printMemory_withControl c s) (by simpa using flags) (by simpa using pushRet)
  | readChar =>
    exact beside (congrArg Except.ok (readChar_withControl c s)) (by simpa using flags) (by simpa using pushRet)
  | readLine =>
    exact beside (congrArg Except.ok (readLine_withControl c s)) (by simpa using flags) (by simpa using pushRet)
  | printReg g =>
    refine beside ?_ (by simpa using flags) (by simpa using pushRet)
    simp only [runTask, regValue_withControl]
    rfl
  | sleep => exact beside rfl (by simpa using flags) (by simpa using pushRet)
  | setSp | setBp =>
    refine beside ?_ (by simpa using flags) (by simpa using pushRet)
    simp only [runTask, withControl_getWord, setsp, setbp]
    split <;> rfl

/-- A task that raises does so whatever the control part. -/
theorem runTask_error_withControl {k : IntTask} {e : MachineError} (h : runTask s k = .error e) :
    runTask (s.withControl c) k = .error e := by
  cases k with
  | raises | unlisted => exact h
  | printMem =>
    rw [runTask] at h ⊢
    rw [printMemory_withControl, h]
    rfl
  | setSp => exact setsp_error.mpr (setsp_error.mp h)
  | setBp => exact setbp_error.mpr (setbp_error.mp h)
  | _ => cases h

end

/-! ### Every instruction -/

section
variable {s t : State} {i : Instr} (c : Control)

/-- The branches decide with `c` as they do in `s`: whether they are taken, and, if so, whether they push. -/
def SameDecisions (s : State) (c : Control) (i : Instr) : Prop :=
  ∀ b tg, i = .bcc b tg → (taken (s.withControl c) b ↔ taken s b) ∧ (taken s b → c.pushRet = s.pushRet)

theorem Raises.withControl {e : MachineError} (h : Raises s i e) (hd : SameDecisions s c i) :
    Raises (s.withControl c) i e := by
  cases h with
  | rhs hf he => exact .rhs hf (by simpa using he)
  | divisor hv he => exact .divisor (by simpa using hv) (divInto_error_withControl c he)
  | field hi hn => exact .field hi hn
  | load hn => exact .load hn
  | store hq hm => exact .store hq (by simpa using hm)
  | popRegNull hq hn => exact .popRegNull hq hn
  | popMemNull hn => exact .popMemNull hn
  | retNull hn => exact .retNull hn
  | popReg hq hv he => exact .popReg hq hv (by rw [writeReg_withControl, he]; rfl)
  | ret hv hm => exact .ret hv hm
  | pushImm ho => exact .pushImm ho
  | pushReg hq ho => exact .pushReg hq ho
  | int he => exact .int (runTask_error_withControl c he)
  | jump hp hm => exact .jump hp (by simpa using hm)
  | branch hp hb hr hm =>
    obtain ⟨htaken, hpush⟩ := hd _ _ rfl
    exact .branch hp (htaken.mpr hb) ((hpush hb).trans hr) (by simpa using hm)
  | call hp hb hr ho =>
    obtain ⟨htaken, hpush⟩ := hd _ _ rfl
    exact .call hp (htaken.mpr hb) ((hpush hb).trans hr) ho

/-- Replacing the control part replaces the control part of what is left, unless a branch decides otherwise. -/
theorem Ends.withControl (h : Ends s i t) (hd : SameDecisions s c i) :
    ∃ c', Ends (s.withControl c) i (t.withControl c') ∧ Tracks s c t c' := by
  have same (hf : s.sameFlags t) (hp : t.pushRet = s.pushRet) (he : Ends (s.withControl c) i (t.withControl c)) :
      ∃ c', Ends (s.withControl c) i (t.withControl c') ∧ Tracks s c t c' :=
    ⟨c, he, tracks_of_same c hf hp⟩
  cases h with
  | raise h => exact same (sameFlags_refl s) rfl (.raise (h.withControl c hd))
  | hlt => exact same (sameFlags_refl s) rfl .hlt
  | @add d rhs v hv =>
    obtain ⟨c', ha, ht⟩ := addInto_withControl (s := s) c v (gprOf d)
    exact ⟨c', ha ▸ .add (by simpa using hv), ht⟩
  | div hv ht =>
    obtain ⟨c', ha, ht⟩ := divInto_withControl c ht
    exact ⟨c', .div (by simpa using hv) ha, ht⟩
  | @cmp d rhs v hv =>
    obtain ⟨c', ha, ht⟩ := compareWith_withControl c s v (gprOf d)
    exact ⟨c', ha ▸ .cmp (by simpa using hv), ht⟩
  | nand hv =>
    refine same (sameFlags_writeGpr _ _ _) (writeGpr_pushRet _ _ _) ?_
    exact nandInto_withControl s c _ _ ▸ .nand (by simpa using hv)
  | mov hv =>
    refine same (sameFlags_moveInto _ _ _) (moveInto_pushRet _ _ _) ?_
    exact moveInto_withControl s c _ _ ▸ .mov (by simpa using hv)
  | ld hw =>
    refine same (sameFlags_writeGpr _ _ _) (writeGpr_pushRet _ _ _) ?_
    exact writeGpr_withControl s c _ _ ▸ .ld hw
  | lea =>
    refine same (sameFlags_writeGpr _ _ _) (writeGpr_pushRet _ _ _) ?_
    exact writeGpr_withControl s c _ _ ▸ .lea
  | @stMem a r =>
    refine same (sameFlags_refl s) rfl ?_
    have he : Ends (s.withControl c) (.stMem a r) _ := .stMem
    rwa [readReg_withControl] at he
  | @stRegi n q r hq hm =>
    refine same (sameFlags_refl s) rfl ?_
    have he : Ends (s.withControl c) (.stRegi n r) _ := .stRegi hq (by simpa using hm)
    rwa [readReg_withControl, readReg_withControl] at he
  | popReg hq hv ht =>
    refine same (sameFlags_dropTop (sameFlags_writeReg ht)) ((dropTop_pushRet _).trans (writeReg_pushRet ht)) ?_
    exact .popReg (t := State.withControl _ c) hq hv (by rw [writeReg_withControl, ht]; rfl)
  | popMem hv => exact same (sameFlags_refl s) rfl (.popMem hv)
  | ret hv hm => exact same (sameFlags_refl s) rfl (.ret hv hm)
  | pushImm hp => exact same (sameFlags_refl s) rfl (.pushImm hp)
  | @pushReg n q p hq hp =>
    refine same (sameFlags_refl s) rfl ?_
    have he : Ends (s.withControl c) (.pushReg n) _ := .pushReg hq hp
    rwa [setSp_withControl, readReg_withControl] at he
  | int ht =>
    obtain ⟨c', ha, ht⟩ := runTask_withControl c ht
    exact ⟨c', .int ha, ht⟩
  | @jump tg p hp hm =>
    refine same (sameFlags_refl s) rfl ?_
    have he : Ends (s.withControl c) (.jmp tg) _ := .jump hp (by simpa using hm)
    rwa [placeWord_withControl] at he
  | stay hp hb => exact same (sameFlags_refl s) rfl (.stay hp (mt (hd _ _ rfl).1.mp hb))
  | @branch b tg p hp hb hr hm =>
    obtain ⟨htaken, hpush⟩ := hd _ _ rfl
    refine same (sameFlags_refl s) rfl ?_
    have he : Ends (s.withControl c) (.bcc b tg) _ :=
      .branch hp (htaken.mpr hb) ((hpush hb).trans hr) (by simpa using hm)
    rwa [placeWord_withControl] at he
  | @call b tg p q hp hb hr hq hm =>
    obtain ⟨htaken, hpush⟩ := hd _ _ rfl
    refine same (sameFlags_refl s) rfl ?_
    have he : Ends (s.withControl c) (.bcc b tg) _ :=
      .call hp (htaken.mpr hb) ((hpush hb).trans hr) hq (by simpa [setSp_withControl] using hm)
    rwa [setSp_withControl, placeWord_withControl] at he
  | callCrash hn hb hr hq hm =>
    obtain ⟨htaken, hpush⟩ := hd _ _ rfl
    refine same (sameFlags_refl s) rfl ?_
    exact .callCrash hn (htaken.mpr hb) ((hpush hb).trans hr) hq (by simpa [setSp_withControl] using hm)

end

/-! ### The statements -/

section
variable {s t : State} {i : Instr}

/-- INT 70 and INT 71 write push_ret, and nothing else does. -/
theorem exec_pushRet (h : exec i s = .next t) :
    t.pushRet = if i = .int 70#8 then true else if i = .int 71#8 then false else s.pushRet := by
  split
  case isTrue hi =>
    subst hi
    rw [exec_int_of_setPushRet (k := 70#8) rfl s] at h
    exact (Host.Outcome.next.inj h).symm ▸ rfl
  case isFalse h70 =>
  split
  case isTrue hi =>
    subst hi
    rw [exec_int_of_setPushRet (k := 71#8) rfl s] at h
    exact (Host.Outcome.next.inj h).symm ▸ rfl
  case isFalse h71 =>
  rcases (exec_iff_ends.mp h).system with ⟨-, -, hp, -⟩ | ⟨x, -, rfl⟩ | ⟨k, rfl, ht⟩ | ⟨e, u, ⟨-, -, hp, -⟩, rfl⟩
  · exact hp
  · rfl
  · rcases runTask_pushRet ht with hp | hk
    · exact hp
    · cases hb : t.pushRet with
      | true => exact absurd (congrArg Instr.int (code_of_intTask (c := 70#8) (hb ▸ hk) rfl)) h70
      | false => exact absurd (congrArg Instr.int (code_of_intTask (c := 71#8) (hb ▸ hk) rfl)) h71
  · exact hp

/-- The control part of a state. -/
def State.control (s : State) : Control := ⟨s.flagZ, s.flagS, s.flagO, s.flagR, s.pushRet⟩

/-- Without a taken branch push_ret is not read. -/
theorem exec_with_pushRet (x : Bool) (h : exec i s = .next t) (hb : ∀ b tg, i = Instr.bcc b tg → ¬ taken s b) :
    exec i { s with pushRet := x } =
      .next { t with pushRet := if i = .int 70#8 then true else if i = .int 71#8 then false else x } := by
  have hd : SameDecisions s { s.control with pushRet := x } i := fun b tg hi =>
    ⟨by cases b <;> exact Iff.rfl, fun ht => absurd ht (hb b tg hi)⟩
  obtain ⟨⟨z, n, o, r, p⟩, he, hz, hn, ho, hr, -⟩ := (exec_iff_ends.mp h).withControl _ hd
  obtain rfl : z = t.flagZ := hz rfl
  obtain rfl : n = t.flagS := hn rfl
  obtain rfl : o = t.flagO := ho rfl
  obtain rfl : r = t.flagR := hr rfl
  have hexec : exec i { s with pushRet := x } = .next { t with pushRet := p } := exec_of_ends he
  have hp := exec_pushRet hexec
  rw [hexec, ← hp]

/-- A taken branch that pushes leaves the return address on the stack, unless it crashes. -/
theorem exec_call_top {b : Branch} {tg : Target} {q : Word} (hb : taken s b) (hr : s.pushRet = true)
    (hq : s.pushesTo q) (h : exec (.bcc b tg) s = .next t) (hc : ∀ e, t.run ≠ .crashed e) :
    t.sp = q ∧ t.mem.read q.toNat = some s.pc := by
  have crash {u : State} {e : MachineError} (hu : exec (.bcc b tg) s = .next (raise e u)) : False := by
    rw [hu] at h
    obtain rfl := Host.Outcome.next.inj h
    exact hc e rfl
  rcases field_or_placeOf tg with ⟨n, rfl, hn⟩ | ⟨p, hp⟩
  · exact (crash (exec_field_error (regField_bcc_reg b n) hn)).elim
  · cases hm : (placeWord (s.setSp q) p).msb with
    | false =>
      rw [exec_of_ends (.call hp hb hr hq hm)] at h
      obtain rfl := Host.Outcome.next.inj h
      exact ⟨rfl, by simp [State.pushed]⟩
    | true =>
      rcases placeOf_ok hp with ⟨a, rfl, rfl⟩ | ⟨n, r, rfl, hn, rfl⟩
      · rw [placeWord, msb_addr] at hm
        cases hm
      · exact (crash (exec_of_ends (.callCrash hn hb hr hq hm))).elim

end

/-- Settles O51: only INT writes push_ret, and replacing it is seen by a taken branch alone. -/
theorem pushRetReadOnlyByTakenBranches : Obligations.PushRetReadOnlyByTakenBranches := by
  obtain ⟨-, -, hjump⟩ := int71ClearsPushRet
  exact ⟨rfl, fun _ _ _ h => exec_pushRet h, fun _ _ _ x h hb => exec_with_pushRet x h hb,
    fun b tg s hb hp => hjump b tg s hp hb, fun _ _ _ _ _ hb hr hq h hc => exec_call_top hb hr hq h hc⟩

/-- A branch stands under another opcode than ADD, DIV and INT. -/
theorem bcc_opcode (b : Branch) (tg : Target) :
    (∀ d rhs, Instr.bcc b tg ≠ .add d rhs ∧ Instr.bcc b tg ≠ .div d rhs) ∧ ∀ k, Instr.bcc b tg ≠ .int k := by
  have opcode {i : Instr} (h : Instr.bcc b tg = i) : b.opcode = field (encode i) 12 4 := by rw [← h, opcode_bcc]
  refine ⟨fun d rhs => ⟨fun h => ?_, fun h => ?_⟩, fun k h => ?_⟩
  · have hop := opcode h
    rw [opcode_add] at hop
    cases b <;> cases hop
  · have hop := opcode h
    rw [opcode_div] at hop
    cases b <;> cases hop
  · have hop : b.opcode = 0xD#4 := (opcode h).trans (Laws.EncodedOpcode.int k)
    cases b <;> cases hop

/-- A branch leaves R alone. -/
theorem bcc_flagR {b : Branch} {tg : Target} {s t : State} (h : exec (.bcc b tg) s = .next t) :
    t.flagR = s.flagR := by
  obtain ⟨harith, hint⟩ := bcc_opcode b tg
  by_contra hne
  obtain ⟨-, -, -, hwriter⟩ := flagWriters _ _ _ h
  rcases hwriter hne with ⟨d, rhs, hi | ⟨-, hi⟩⟩ | hi
  · exact (harith d rhs).2 hi
  · exact (harith d rhs).1 hi
  · simp [hint] at hi

/-- Settles O53: the control part is replaced but for push_ret, and for a branch but for the flags it may read. -/
theorem flagsReadOnlyByBranches : Obligations.FlagsReadOnlyByBranches := by
  refine ⟨fun i s t z n o r h hi => ?_, fun b tg s t r h => ?_⟩
  · have hd : SameDecisions s ⟨z, n, o, r, s.pushRet⟩ i := fun b tg hb => absurd hb (hi b tg)
    obtain ⟨⟨z', n', o', r', p⟩, he, htracks⟩ := (exec_iff_ends.mp h).withControl _ hd
    obtain rfl : p = t.pushRet := htracks.pushRet rfl
    exact ⟨z', n', o', r', exec_of_ends he⟩
  · have hd : SameDecisions s { s.control with remainder := r } (.bcc b tg) := fun b' tg' _ =>
      ⟨by cases b' <;> exact Iff.rfl, fun _ => rfl⟩
    obtain ⟨⟨z', n', o', r', p⟩, he, hz, hn, ho, -, hp⟩ := (exec_iff_ends.mp h).withControl _ hd
    obtain rfl : z' = t.flagZ := hz rfl
    obtain rfl : n' = t.flagS := hn rfl
    obtain rfl : o' = t.flagO := ho rfl
    obtain rfl : p = t.pushRet := hp rfl
    have hexec : exec (.bcc b tg) { s with flagR := r } = .next { t with flagR := r' } := exec_of_ends he
    obtain rfl : r' = r := bcc_flagR hexec
    exact hexec

end Sys2Proof.Machine
end

section
/-!
PROOFS. O14 to O26: the right sides, the float cast, ADD, DIV, CMP, NAND, MOV, LD and LEA. Each instruction is one rule
of `Ends`; what is left is the arithmetic of its result, and that a write to a general register changes that register.
-/

namespace Sys2Proof.Machine

/-! ### Right sides -/

/-- Settles O14: a right side is a register, or one or two reads of memory. -/
theorem rightSideValues : Obligations.RightSideValues := by
  refine fun s => ⟨fun i => rfl, fun n r hr => ?_, fun n r w hr hm hw => ?_, fun n r hr he => ?_,
    fun a p w hp hm hw => ?_, fun a hn => ?_, fun a p hp he => ?_⟩
  · rw [rhsValue, hr]
    rfl
  · rw [rhsValue, hr]
    exact congrArg (Except.map Value.word) (memRead_toaddr hm hw)
  · rw [rhsValue, hr]
    exact congrArg (Except.map Value.word) (memRead_toaddr_error he)
  · rw [rhsValue, memRead_field (by decide) hp]
    exact congrArg (Except.map Value.word) (memRead_toaddr hm hw)
  · rw [rhsValue, memRead_field_null hn]
    rfl
  · rw [rhsValue, memRead_field (by decide) hp]
    exact congrArg (Except.map Value.word) (memRead_toaddr_error he)

/-- Settles O15: it is a rule. -/
theorem rightSideErrorsCrash : Obligations.RightSideErrorsCrash :=
  fun _ _ _ _ _ hf he => exec_of_raises (.rhs hf he)

/-- Settles O16: it is a rule. -/
theorem invalidRegisterFieldsCrash : Obligations.InvalidRegisterFieldsCrash :=
  fun _ _ _ hi hn => exec_of_raises (.field hi hn)

/-- Settles O17: the field names the register that is read. -/
theorem movReadsNumberedRegisters : Obligations.MovReadsNumberedRegisters :=
  fun _ => ⟨rfl, rfl, rfl, rfl, rfl, rfl, rfl, rfl, rfl, rfl⟩

/-! ### The float cast -/

/-- The exponent of a magnitude: at most 15, and it brings the magnitude to 24 bits. -/
theorem log2_bounds {mag : Nat} (hpos : mag ≠ 0) (hle : mag ≤ 32768) :
    mag.log2 ≤ 15 ∧ 2 ^ 23 ≤ mag * 2 ^ (23 - mag.log2) ∧ mag * 2 ^ (23 - mag.log2) < 2 ^ 24 := by
  have hlog : mag.log2 < 16 := (Nat.log2_lt hpos).mpr (by omega)
  have hlo : 2 ^ mag.log2 ≤ mag := Nat.log2_self_le hpos
  have hhi : mag < 2 ^ (mag.log2 + 1) := Nat.lt_log2_self
  have hsplit : 2 ^ mag.log2 * 2 ^ (23 - mag.log2) = 2 ^ 23 := by rw [← pow_add]; congr 1; omega
  have hsplit' : 2 ^ (mag.log2 + 1) * 2 ^ (23 - mag.log2) = 2 ^ 24 := by rw [← pow_add]; congr 1; omega
  refine ⟨by omega, ?_, ?_⟩
  · rw [← hsplit]
    exact Nat.mul_le_mul_right _ hlo
  · rw [← hsplit']
    exact Nat.mul_lt_mul_of_pos_right hhi (Nat.two_pow_pos _)

theorem natAbs_toInt_le (w : Word) : w.toInt.natAbs ≤ 32768 := by
  have := w.toInt_lt
  have := w.le_toInt
  omega

/-- The three fields of the cast of a word that is not 0. -/
theorem i2f_of_ne_zero {w : Word} (h : w ≠ 0#16) :
    i2f w = (if w.toInt < 0 then 1#1 else 0#1) ++ BitVec.ofNat 8 (127 + w.toInt.natAbs.log2) ++
      BitVec.ofNat 23 (w.toInt.natAbs * 2 ^ (23 - w.toInt.natAbs.log2)) := by
  have hmag : w.toInt.natAbs ≠ 0 := by
    rw [Int.natAbs_ne_zero]
    exact fun h0 => h (BitVec.eq_of_toInt_eq h0)
  exact if_neg hmag

/-- Settles O18: the exponent is that of the magnitude, and the stored significand is the rest of it. -/
theorem floatCastIsExact : Obligations.FloatCastIsExact := by
  refine ⟨rfl, fun w hw => ?_⟩
  have hmag : w.toInt.natAbs ≠ 0 := by
    rw [Int.natAbs_ne_zero]
    exact fun h0 => hw (BitVec.eq_of_toInt_eq h0)
  obtain ⟨hlog, hlo, hhi⟩ := log2_bounds hmag (natAbs_toInt_le w)
  have hexp : ((i2f w).extractLsb' 23 8).toNat = 127 + w.toInt.natAbs.log2 := by
    rw [i2f_of_ne_zero hw, BitVec.extractLsb'_append_eq_of_le (Nat.le_refl 23), Nat.sub_self,
      BitVec.extractLsb'_append_eq_right, BitVec.toNat_ofNat]
    omega
  have hfrac : ((i2f w).extractLsb' 0 23).toNat = w.toInt.natAbs * 2 ^ (23 - w.toInt.natAbs.log2) - 2 ^ 23 := by
    rw [i2f_of_ne_zero hw, BitVec.extractLsb'_append_eq_right, BitVec.toNat_ofNat]
    omega
  refine ⟨?_, by omega, by omega, ?_⟩
  · have hsign : (i2f w).msb = (if w.toInt < 0 then 1#1 else 0#1).msb := by
      rw [i2f_of_ne_zero hw]
      exact BitVec.msb_append.trans BitVec.msb_append
    rw [hsign]
    split <;> simp_all
  · rw [hexp, hfrac, Nat.add_sub_cancel_left, Nat.add_sub_cancel' hlo, Nat.mul_assoc, ← pow_add]
    congr 2
    omega

/-! ### Writing one general register -/

section
variable {s t : State}

/-- Everything but the general register `g` and the flags. -/
def State.sameButGpr (s t : State) (g : Gpr) : Prop :=
  s.sameGprsBut t g ∧ s.samePointers t ∧ s.sameSystem t ∧ t.mem = s.mem

theorem sameButGpr_setWord (q : WordReg) (w : Word) : s.sameButGpr (s.setWord q w) (.word q) := by
  refine ⟨⟨fun q' hq => ?_, fun q' _ => by simp⟩, by simp [State.samePointers], by simp [State.sameSystem], by simp⟩
  have hne : q' ≠ q := fun h => hq (congrArg Gpr.word h)
  simp [hne]

theorem sameButGpr_setFloat (q : FloatReg) (f : FloatWord) : s.sameButGpr (s.setFloat q f) (.float q) := by
  refine ⟨⟨fun q' _ => by simp, fun q' hq => ?_⟩, by simp [State.samePointers], by simp [State.sameSystem], by simp⟩
  have hne : q' ≠ q := fun h => hq (congrArg Gpr.float h)
  simp [hne]

theorem sameButGpr_writeGpr (g : Gpr) (w : Word) : s.sameButGpr (writeGpr s g w) g := by
  cases g with
  | word q => exact sameButGpr_setWord q w
  | float q => exact sameButGpr_setFloat q (i2f w)

theorem sameButGpr_moveInto (v : Value) (g : Gpr) : s.sameButGpr (moveInto s v g) g := by
  cases g with
  | word q => exact sameButGpr_setWord q v.asWord
  | float q => exact sameButGpr_setFloat q v.asFloat

/-- Flags written before the register are no more than flags. -/
theorem sameButGpr_flags {q : WordReg} {w : Word} (z n o r : Bool) :
    s.sameButGpr ((s.withFlags z n o r).setWord q w) (.word q) := by
  obtain ⟨⟨hw, hf⟩, hp, hsys, hm⟩ := sameButGpr_setWord (s := s.withFlags z n o r) q w
  have hword (q' : WordReg) : (s.withFlags z n o r).getWord q' = s.getWord q' := by cases q' <;> rfl
  have hfloat (q' : FloatReg) : (s.withFlags z n o r).getFloat q' = s.getFloat q' := by cases q' <;> rfl
  exact ⟨⟨fun q' hq => (hw q' hq).trans (hword q'), fun q' hq => (hf q' hq).trans (hfloat q')⟩, hp, hsys, hm⟩

end

/-! ### ADD -/

theorem wrap16_add (a b : Word) : wrap16 (a.toInt + b.toInt) = a + b := by
  apply BitVec.eq_of_toInt_eq
  rw [wrap16, BitVec.toInt_ofInt, BitVec.toInt_add]

/-- A result overflows exactly when wrapping changes it. -/
theorem overflows_iff (x : Int) : overflows x = true ↔ (wrap16 x).toInt ≠ x := by
  rw [wrap16, BitVec.toInt_ofInt, overflows, Bool.or_eq_true, decide_eq_true_iff, decide_eq_true_iff, Int.bmod_def]
  split <;> omega

/-- Settles O19: the rule of ADD, for a word register. -/
theorem addIntoWordRegister : Obligations.AddIntoWordRegister := by
  intro d rhs s r v hd hv
  have hexec : exec (.add d rhs) s = .next (addInto s v (.word r)) := hd ▸ exec_of_ends (.add hv)
  have hframe : s.sameButGpr (addInto s v (.word r)) (.word r) := sameButGpr_flags s.flagZ s.flagS _ s.flagR
  have hsum : (addInto s v (.word r)).getWord r = s.getWord r + v.asWord := by
    simp [addInto, setOverflow, wrap16_add]
  obtain ⟨hgpr, hptr, hsys, hmem⟩ := hframe
  refine ⟨_, hexec, hsum, ?_, by simp [addInto, setOverflow], by simp [addInto, setOverflow],
    by simp [addInto, setOverflow], hgpr, hptr, hsys, hmem⟩
  rw [hsum, ← wrap16_add, ← overflows_iff]
  simp [addInto, setOverflow]

/-! ### DIV -/

theorem wrap16_idiv (a b : Word) : wrap16 (idiv a.toInt b.toInt) = a.sdiv b := by
  apply BitVec.eq_of_toInt_eq
  rw [wrap16, BitVec.toInt_ofInt, BitVec.toInt_sdiv, idiv]

theorem hasRemainder_iff (a b : Word) : hasRemainder a.toInt b.toInt = true ↔ a.srem b ≠ 0#16 := by
  have hsub : a.toInt - idiv a.toInt b.toInt * b.toInt = (a.srem b).toInt := by
    rw [BitVec.toInt_srem, Int.tmod_def, idiv, Int.mul_comm]
  rw [hasRemainder, decide_eq_true_iff, hsub]
  exact not_congr (BitVec.toInt_inj (y := 0#16))

/-- The one quotient outside 16 bits: -32768 / -1. -/
theorem overflows_idiv_iff {x y : Int} (hx : -32768 ≤ x ∧ x ≤ 32767) (hy : y ≠ 0) :
    overflows (idiv x y) = true ↔ x = -32768 ∧ y = -1 := by
  have habs : (idiv x y).natAbs = x.natAbs / y.natAbs := Int.natAbs_tdiv x y
  rw [overflows, Bool.or_eq_true, decide_eq_true_iff, decide_eq_true_iff]
  by_cases h2 : 2 ≤ y.natAbs
  · have hle : x.natAbs / y.natAbs ≤ x.natAbs / 2 := Nat.div_le_div_left h2 (by decide)
    omega
  · obtain rfl | rfl : y = 1 ∨ y = -1 := by omega
    · simp only [idiv, Int.tdiv_one]
      omega
    · have hneg : idiv x (-1) = -x := by rw [idiv, Int.tdiv_neg, Int.tdiv_one]
      rw [hneg]
      omega

theorem toInt_ne_zero {w : Word} (h : w ≠ 0#16) : w.toInt ≠ 0 := fun h0 => h (BitVec.eq_of_toInt_eq h0)

theorem overflows_sdiv_iff {a b : Word} (hb : b ≠ 0#16) :
    overflows (idiv a.toInt b.toInt) = true ↔ a = 0x8000#16 ∧ b = 0xFFFF#16 := by
  have hlt := a.toInt_lt
  have hle := a.le_toInt
  rw [overflows_idiv_iff ⟨hle, Int.le_of_lt_add_one hlt⟩ (toInt_ne_zero hb), ← BitVec.toInt_inj (y := 0x8000#16),
    ← BitVec.toInt_inj (y := 0xFFFF#16)]
  rfl

theorem divInto_word_of_ne {s : State} {v : Value} {r : WordReg} (hv : v.asWord ≠ 0#16) :
    divInto s v (.word r) = .ok (((setOverflow s (idiv (s.getWord r).toInt v.asWord.toInt)).setR
      (hasRemainder (s.getWord r).toInt v.asWord.toInt)).setWord r ((s.getWord r).sdiv v.asWord)) := by
  rw [← wrap16_idiv]
  exact if_neg (toInt_ne_zero hv)

/-- Settles O20: the rules of DIV, for a word register. -/
theorem divOfWordRegister : Obligations.DivOfWordRegister := by
  intro d rhs s r v hd hv
  refine ⟨fun hne => ?_, fun hz => ?_⟩
  · have hexec := exec_of_ends (.div hv (hd.symm ▸ divInto_word_of_ne (s := s) (r := r) hne))
    obtain ⟨hgpr, hptr, hsys, hmem⟩ := sameButGpr_flags (s := s) (q := r)
      (w := (s.getWord r).sdiv v.asWord) s.flagZ s.flagS (overflows (idiv (s.getWord r).toInt v.asWord.toInt))
      (hasRemainder (s.getWord r).toInt v.asWord.toInt)
    refine ⟨_, hexec, by simp, ?_, ?_, by simp [setOverflow], by simp [setOverflow], hgpr, hptr, hsys, hmem⟩
    · simpa using hasRemainder_iff (s.getWord r) v.asWord
    · simpa [setOverflow] using overflows_sdiv_iff (a := s.getWord r) hne
  · refine exec_of_raises (.divisor hv ?_)
    rw [hd]
    exact if_pos (by rw [hz]; rfl)

/-! ### Float ADD and DIV, CMP -/

/-- Settles O21: the rules of ADD and DIV, for a float register. -/
theorem floatArithmeticRuns : Obligations.FloatArithmeticRuns := by
  intro d rhs s r v b hd hv hb
  obtain rfl : v.asFloat = b := by rcases hb with rfl | ⟨w, rfl, rfl⟩ <;> rfl
  refine ⟨⟨Config.floatFlagO .add (s.getFloat r) v.asFloat s.flagO,
    Config.floatFlagR .add (s.getFloat r) v.asFloat s.flagR, (exec_of_ends (.add hv)).trans (by rw [hd]; rfl)⟩, ?_⟩
  by_cases hz : (floatIsZero v.asFloat && Config.floatDivZeroRaises (s.getFloat r) v.asFloat) = true
  · refine .inr ⟨?_, exec_of_raises (.divisor hv ?_)⟩
    · simpa [floatIsZero] using (Bool.and_eq_true_iff.mp hz).1
    · rw [hd]
      exact if_pos hz
  · refine .inl ⟨Config.floatFlagO .div (s.getFloat r) v.asFloat s.flagO,
      Config.floatFlagR .div (s.getFloat r) v.asFloat s.flagR, exec_of_ends (.div hv ?_)⟩
    rw [hd]
    exact if_neg hz

/-- Settles O22: the rule of CMP. -/
theorem compareWritesZeroAndSign : Obligations.CompareWritesZeroAndSign := by
  refine fun d rhs s v hv => ⟨fun r hd => ?_, fun r hd =>
    ⟨Config.feq (s.getFloat r) v.asFloat, Config.flt (s.getFloat r) v.asFloat, ?_⟩⟩
  · exact (exec_of_ends (.cmp hv)).trans (by rw [hd]; rfl)
  · exact (exec_of_ends (.cmp hv)).trans (by rw [hd]; rfl)

/-! ### NAND, MOV, LD, LEA -/

/-- Settles O23: the rule of NAND. -/
theorem nandIntoRegister : Obligations.NandIntoRegister := by
  refine fun d rhs s v hv => ⟨fun r hd => ⟨_, exec_of_ends (.nand hv), ?_⟩, fun r hd => ?_⟩
  · obtain ⟨hgpr, hptr, hsys, hmem⟩ := sameButGpr_writeGpr (s := s) (gprOf d)
      (~~~(readReg s (.gpr (gprOf d)) &&& v.asWord))
    refine ⟨fun k hk => ?_, hd ▸ hgpr, sameFlags_writeGpr _ _ _, hptr, hsys, hmem⟩
    rw [hd]
    simp [nandInto, readReg, regValue, Value.asWord, hk]
  · exact (exec_of_ends (.nand hv)).trans (by rw [hd]; rfl)

/-- Settles O24: the rule of MOV. -/
theorem moveIntoRegister : Obligations.MoveIntoRegister := by
  intro d rhs s v hv
  obtain ⟨hgpr, hptr, hsys, hmem⟩ := sameButGpr_moveInto (s := s) v (gprOf d)
  refine ⟨_, exec_of_ends (.mov hv), fun r w hd hw => ?_, fun r f hd hf => ?_, fun r f hd hf => ?_,
    fun r w hd hw => ?_, hgpr, sameFlags_moveInto _ _ _, hptr, hsys, hmem⟩
  · simp [hd, hw, moveInto, Value.asWord]
  · simp [hd, hf, moveInto, Value.asWord]
  · simp [hd, hf, moveInto, Value.asFloat]
  · simp [hd, hw, moveInto, Value.asFloat]

/-- Settles O25: the rules of LD. -/
theorem loadReadsTheCell : Obligations.LoadReadsTheCell := by
  refine fun d a s => ⟨fun w hw => ?_, fun hn => exec_of_raises (.load hn)⟩
  obtain ⟨hgpr, hptr, hsys, hmem⟩ := sameButGpr_writeGpr (s := s) (gprOf d) w
  exact ⟨_, exec_of_ends (.ld hw), fun r hd => by simp [hd], fun r hd => by simp [hd], hgpr,
    sameFlags_writeGpr _ _ _, hptr, hsys, hmem⟩

/-- Settles O26: the rule of LEA, and the registers the field names. -/
theorem leaLoadsTheAddress : Obligations.LeaLoadsTheAddress := by
  refine ⟨fun d a s => ?_, fun a s => ⟨rfl, rfl, rfl, rfl, rfl, rfl, rfl, rfl⟩⟩
  obtain ⟨hgpr, hptr, hsys, hmem⟩ := sameButGpr_writeGpr (s := s) (gprOf d) (a.setWidth 16)
  have ha : (a.setWidth 16).toNat = a.toNat := BitVec.toNat_setWidth_of_le (by decide)
  refine ⟨_, exec_of_ends .lea, fun r hd => ?_, fun r hd => ?_, hgpr, sameFlags_writeGpr _ _ _, hptr, hsys, hmem⟩
  · rw [writeGpr_getWord, if_pos hd.symm, ha]
  · rw [writeGpr_getFloat, if_pos hd.symm, ← ha, BitVec.ofNat_toNat, BitVec.setWidth_eq]

end Sys2Proof.Machine
end

section
/-!
PROOFS. O27 to O41: ST, the call stack, JMP, the branches and HLT. Each is one or two rules of `Ends`, with what a
written cell, a push and a dropped top change.
-/

namespace Sys2Proof.Machine

/-! ### ST -/

section
variable {s : State}

/-- A cell written is the one cell that changes. -/
theorem write_one_cell (s : State) (a : Nat) (w : Word) :
    (s.setMem (s.mem.write a w)).mem.read a = some w ∧ s.sameCellsBut (s.setMem (s.mem.write a w)) a ∧
    s.setMem (s.mem.write a w) = { s with mem := (s.setMem (s.mem.write a w)).mem } := by
  refine ⟨by simp, fun b hb => ?_, rfl⟩
  simp [hb]

end

/-- Settles O27: the rules of ST. -/
theorem storeWritesOneCell : Obligations.StoreWritesOneCell := by
  refine ⟨fun r s => ⟨fun a => ⟨_, exec_of_ends .stMem, write_one_cell _ _ _⟩,
    fun n q hq hm => ⟨_, exec_of_ends (.stRegi hq hm), write_one_cell _ _ _⟩,
    fun n q hq hm => exec_of_raises (.store hq hm)⟩, fun a s p hp => ?_⟩
  have stored (r : BitVec 3) {w : Word} (hw : readReg s (.gpr (gprOf r)) = w) :
      ∃ t, exec (.stMem a r) s = .next t ∧ t.mem.read a.toNat = some w :=
    ⟨_, exec_of_ends .stMem, hw ▸ (write_one_cell s _ _).1⟩
  simp only [List.mem_cons, List.not_mem_nil, or_false] at hp
  rcases hp with rfl | rfl | rfl | rfl | rfl | rfl | rfl | rfl
  all_goals exact stored _ rfl

/-- Settles O28: the cell that ST writes through pc is the one the fetch reads. -/
theorem storeThroughPcIsFetchedNext : Obligations.StoreThroughPcIsFetchedNext := by
  intro r s hrun hm
  have hpc : s.pc ≠ 0xFFFF#16 := by
    intro h
    rw [h] at hm
    cases hm
  exact ⟨_, exec_of_ends (.stRegi (q := .pc) rfl hm), hrun, (write_one_cell s _ _).1, hpc⟩

/-! ### PUSH -/

/-- A push moves sp and writes the cell at the new sp. -/
theorem pushed_frame (s : State) (p w : Word) :
    (s.pushed p w).sp = p ∧ (s.pushed p w).mem.read p.toNat = some w ∧ s.sameCellsBut (s.pushed p w) p.toNat ∧
    s.pushed p w = { s with sp := p, mem := (s.pushed p w).mem } := by
  refine ⟨rfl, by simp [State.pushed], fun b hb => ?_, rfl⟩
  simp [State.pushed, hb]

/-- Settles O29: the rules of PUSH. -/
theorem pushWritesTheNewTop : Obligations.PushWritesTheNewTop :=
  fun s p hp => ⟨fun _ => ⟨_, exec_of_ends (.pushImm hp), pushed_frame s p _⟩,
    fun _ _ hr => ⟨_, exec_of_ends (.pushReg hr hp), pushed_frame s p _⟩⟩

/-- Settles O30: they are rules. -/
theorem pushOverflowCrashes : Obligations.PushOverflowCrashes :=
  fun _ ho => ⟨fun _ => exec_of_raises (.pushImm ho), fun _ _ hr => exec_of_raises (.pushReg hr ho),
    fun _ _ _ hp hb hr => exec_of_raises (.call hp hb hr ho)⟩

/-! ### POP and RET -/

section
variable {s t : State}

/-- The drop makes the cell at sp NULL and no other. -/
theorem dropTop_cells (h : t.Inv) : (dropTop t).mem.read t.sp.toNat = none ∧ t.sameCellsBut (dropTop t) t.sp.toNat := by
  have hread (b : Nat) := Memory.read_erase h t.sp.toNat b
  refine ⟨by rw [dropTop_mem, hread, if_pos rfl], fun b hb => ?_⟩
  rw [dropTop_mem, hread, if_neg hb]

end

/-- Settles O31: the rule of POP, for a general register. -/
theorem popIntoGeneralRegister : Obligations.PopIntoGeneralRegister := by
  intro n g s v p hinv hn hv hp
  obtain ⟨⟨hword, hfloat⟩, ⟨hpc, hsp⟩, hsys, hmem⟩ := sameButGpr_writeGpr (s := s) g v
  have htop := dropTop_cells (t := writeGpr s g v) (inv_of_mem_eq hmem hinv)
  rw [hsp] at htop
  obtain ⟨hnull, hcells⟩ := htop
  have hpop : popSp (writeGpr s g v) = p := popSp_of_popsTo (by rwa [hsp, writeGpr_bp])
  refine ⟨_, exec_of_ends (.popReg hn hv rfl), fun r hr => ?_, fun r hr => ?_, ⟨fun q hq => ?_, fun q hq => ?_⟩,
    hpop, hpc, hnull, fun b hb => (hcells b hb).trans (by rw [hmem]),
    sameFlags_dropTop (sameFlags_writeGpr s g v), sameSystem_dropTop hsys⟩
  · simp [hr]
  · simp [hr]
  · rw [dropTop_getWord, hword q hq]
  · rw [dropTop_getFloat, hfloat q hq]

/-- Settles O32: the rule of POP to memory. -/
theorem popIntoMemory : Obligations.PopIntoMemory := by
  intro a s v p hinv hv hp
  have hwf : (s.mem.write a.toNat v).wf := (writtenOnce_field s.mem (by decide) a v).wf hinv
  refine ⟨_, exec_of_ends (.popMem hv), popSp_of_popsTo (s := s.setMem _) hp, fun b => ?_, ?_⟩
  · rw [dropTop_mem, State.setMem_mem, Memory.read_erase hwf, Memory.read_write, State.setMem_sp]
  · obtain rfl := popSp_of_popsTo hp
    rfl

/-- Settles O33: POP R8 and RET are one pop, with its rules. -/
theorem returnPopsPc : Obligations.ReturnPopsPc := by
  intro s v p hinv hv hp
  refine ⟨exec_popReg_of_regOf (q := .pc) rfl, fun hm => exec_of_raises (.ret hv hm), fun hm => ?_⟩
  obtain rfl := popSp_of_popsTo hp
  obtain ⟨hnull, hcells⟩ := dropTop_cells (t := s.setPc v) hinv
  exact ⟨_, exec_of_ends (.ret hv hm), rfl, rfl, hnull, hcells, rfl⟩

/-- Settles O34: the rules of POP, for sp. -/
theorem popIntoStackPointer : Obligations.PopIntoStackPointer := by
  intro s v p hinv hv hp
  have hsp : regOf 9#4 = .ok .sp := rfl
  refine ⟨fun hm => exec_of_raises (.popReg hsp hv (setsp_error.mpr ⟨rfl, oob_of_msb hm⟩)), fun hm => ?_⟩
  obtain rfl := popSp_of_popsTo (s := s.setSp v) hp
  obtain ⟨hnull, hcells⟩ := dropTop_cells (t := s.setSp v) hinv
  exact ⟨_, exec_of_ends (.popReg hsp hv (setsp_toaddr hm)), rfl, hnull, hcells, rfl⟩

/-- Settles O35: they are rules. -/
theorem popUnderflowCrashes : Obligations.PopUnderflowCrashes :=
  fun _ hn => ⟨fun _ _ hr => exec_of_raises (.popRegNull hr hn), fun _ => exec_of_raises (.popMemNull hn),
    exec_of_raises (.retNull hn)⟩

/-! ### Pops after pushes -/

section
variable {s : State} {p w : Word}

/-- A pop moves sp back to where a push took it from, also when it did not move. -/
theorem popsTo_of_pushesTo (h : s.pushesTo p) : popsTo s.bp p s.sp := by
  rcases h with ⟨h1, h2⟩ | ⟨h1, h2⟩ | ⟨h1, h2⟩
  · exact .inl ⟨by omega, by omega⟩
  · exact .inr (.inl ⟨by omega, by omega⟩)
  · exact .inr (.inr ⟨h2.trans h1, h2.symm⟩)

theorem pushed_inv (h : s.Inv) : (s.pushed p w).Inv := Memory.wf_write h p.isLt w

end

/-- Settles O36: the pop finds the word pushed, at the sp it was pushed to. -/
theorem popUndoesPush : Obligations.PopUndoesPush := by
  intro s t i n r hinv hp hn ht
  rw [exec_of_ends (.pushImm hp)] at ht
  have ht' : s.pushed t.sp (sext8 i) = t := Host.Outcome.next.inj ht
  obtain ⟨-, hread, hcells, -⟩ := pushed_frame s t.sp (sext8 i)
  have hbp : (s.pushed t.sp (sext8 i)).bp = s.bp := rfl
  have hinv' : (s.pushed t.sp (sext8 i)).Inv := pushed_inv hinv
  rw [ht'] at hread hcells hbp hinv'
  obtain ⟨u, hu, hword, -, -, hsp, -, hnull, hback, -, -⟩ :=
    popIntoGeneralRegister n (.word r) t (sext8 i) s.sp hinv' hn hread (hbp ▸ popsTo_of_pushesTo hp)
  exact ⟨u, hu, hword r rfl, hsp, hnull, fun b hb => (hback b hb).trans (hcells b hb)⟩

/-! ### JMP and the branches -/

/-- Settles O37: the rules of JMP. -/
theorem jumpSetsPc : Obligations.JumpSetsPc :=
  fun _ => ⟨fun a => exec_of_ends (.jump (tg := .mem a) rfl (msb_addr a)),
    fun n _ hr hm => exec_of_ends (.jump (tg := .reg n) (placeOf_reg hr) hm),
    fun n _ hr hm => exec_of_raises (.jump (tg := .reg n) (placeOf_reg hr) hm)⟩

/-- Settles O38: the rules of a branch that does not push. -/
theorem branchWithoutPush : Obligations.BranchWithoutPush :=
  fun _ _ => ⟨fun hb _ _ hp => exec_of_ends (.stay hp hb),
    fun hb hr a => exec_of_ends (.branch (tg := .mem a) rfl hb hr (msb_addr a)),
    fun hb hr _ _ hn hm => exec_of_ends (.branch (placeOf_reg hn) hb hr hm),
    fun hb hr _ _ hn hm => exec_of_raises (.branch (placeOf_reg hn) hb hr hm)⟩

/-- Settles O39: the rules of a branch that pushes. -/
theorem branchTakenPushesReturnAddress : Obligations.BranchTakenPushesReturnAddress := by
  intro b s p hb hr hp
  obtain ⟨-, hread, hcells, -⟩ := pushed_frame s p s.pc
  exact ⟨fun a => ⟨_, exec_of_ends (.call (tg := .mem a) rfl hb hr hp (msb_addr a)), hread, hcells, rfl⟩,
    fun _ _ hn hm => ⟨_, exec_of_ends (.call (placeOf_reg hn) hb hr hp hm), hread, hcells, rfl⟩,
    fun _ _ hn hm => ⟨_, exec_of_ends (.callCrash hn hb hr hp hm), rfl⟩⟩

/-- Settles O40: RET pops what the branch pushed. -/
theorem returnResumesAfterBranch : Obligations.ReturnResumesAfterBranch := by
  intro b a s p hinv hb hr hp hpc
  obtain ⟨hcall, -, -⟩ := branchTakenPushesReturnAddress b s p hb hr hp
  obtain ⟨t, ht, hread, hcells, htframe⟩ := hcall a
  have hinv' : t.Inv := (exec_iff_ends.mp ht).inv hinv
  have hsp : t.sp = p := by rw [htframe]
  have hbp : t.bp = s.bp := by rw [htframe]
  obtain ⟨-, -, hret⟩ := returnPopsPc t s.pc s.sp hinv' (hsp ▸ hread) (hsp ▸ hbp ▸ popsTo_of_pushesTo hp)
  obtain ⟨u, hu, hupc, husp, -, hback, huframe⟩ := hret hpc
  refine ⟨t, u, ht, hu, hupc, husp, ?_, ?_, ?_, fun c hc => (hback c (hsp ▸ hc)).trans (hcells c hc)⟩
  · rw [huframe, htframe]
    exact ⟨fun q => by cases q <;> rfl, fun q => by cases q <;> rfl⟩
  · rw [huframe, htframe]
    exact ⟨rfl, rfl, rfl, rfl⟩
  · rw [huframe, htframe]
    exact ⟨rfl, rfl, rfl, rfl, rfl, rfl, rfl, rfl⟩

/-- Settles O41: it is a rule. -/
theorem haltStopsTheMachine : Obligations.HaltStopsTheMachine := fun _ _ => exec_of_ends .hlt

end Sys2Proof.Machine
end

section
/-!
PROOFS. O59, O60: the load of a ROM and the screen.
-/

namespace Sys2Proof.Machine

/-! ### The ROM -/

/-- The bytes of a ROM give its words back. -/
theorem romWords_romBytes (ws : List Word) : romWords (romBytes ws) = some ws := by
  induction ws with
  | nil => rfl
  | cons w ws ih =>
    have hw : w.extractLsb' 8 8 ++ w.extractLsb' 0 8 = w :=
      (field_append_field w 0 8 8).trans BitVec.extractLsb'_eq_self
    rw [romBytes, romWords, ih, hw]
    rfl

section
variable {version : Word} {xx : Byte} {body : List Word}

theorem startWord_kind (xx : Byte) : (0x02#8 ++ xx : Word).extractLsb' 8 8 = 0x02#8 :=
  BitVec.extractLsb'_append_eq_left

theorem startWord_start (xx : Byte) : ((0x02#8 ++ xx : Word).extractLsb' 0 8).setWidth 16 = xx.setWidth 16 :=
  congrArg (BitVec.setWidth 16) (BitVec.extractLsb'_append_eq_right (a := 0x02#8))

/-- A ROM with a start word is loaded there, if it fits. -/
theorem loadRom_startWord : loadRom (romBytes (version :: (0x02#8 ++ xx) :: body)) =
    if 65536 < xx.toNat + body.length then .error .tooLong
    else .ok (State.resetAt (xx.setWidth 16) (romImage xx.toNat body)) := by
  have hstart : (xx.setWidth 16).toNat = xx.toNat := BitVec.toNat_setWidth_of_le (by decide)
  rw [loadRom, romWords_romBytes]
  refine (if_neg (not_not_intro (startWord_kind xx))).trans ?_
  simp only [startWord_start, hstart]

end

/-- Settles O59: the body is placed from the start on, after the checks in their order. -/
theorem romLoads : Obligations.RomLoads := by
  refine ⟨fun version xx body hfit => ?_, fun version xx body hlong => ?_, fun version start body hkind => ?_,
    fun rom hodd => ?_, fun rom heven hshort => ?_⟩
  · rw [loadRom_startWord, if_neg (Nat.not_lt.mpr hfit)]
    exact ⟨_, rfl, BitVec.toNat_setWidth_of_le (by decide), rfl, wf_romImage hfit, read_romImage xx.toNat body⟩
  · rw [loadRom_startWord, if_pos hlong]
  · rw [loadRom, romWords_romBytes]
    exact if_pos hkind
  · rcases romWords_length rom with ⟨-, hnone⟩ | ⟨ws, -, hlen⟩
    · rw [loadRom, hnone]
    · omega
  · rcases romWords_length rom with ⟨hodd, -⟩ | ⟨ws, hws, hlen⟩
    · omega
    · rw [loadRom, hws]
      match ws with
      | [] => rfl
      | [_] => rfl
      | _ :: _ :: ws =>
        simp only [List.length_cons] at hlen
        omega

/-! ### The screen -/

theorem screenCell_eq (row : Fin Config.screenRows) (col : Fin Config.screenCols) :
    screenCell row col = 0xFF + 75 * row.val + col.val := rfl

theorem screenCell_bounds (row : Fin Config.screenRows) (col : Fin Config.screenCols) :
    0xFF ≤ screenCell row col ∧ screenCell row col < 0x9C9 := by
  have hrow : row.val < 30 := row.isLt
  have hcol : col.val < 75 := col.isLt
  rw [screenCell_eq]
  omega

theorem screenCell_surjective {a : Nat} (hlo : 0xFF ≤ a) (hhi : a ≤ 0x9C8) : ∃ row col, screenCell row col = a := by
  refine ⟨⟨(a - 0xFF) / 75, show _ < 30 by omega⟩, ⟨(a - 0xFF) % 75, show _ < 75 by omega⟩, ?_⟩
  rw [screenCell_eq]
  dsimp only
  omega

theorem screenCell_injective {row row' : Fin Config.screenRows} {col col' : Fin Config.screenCols}
    (h : screenCell row col = screenCell row' col') : row = row' ∧ col = col' := by
  have hcol : col.val < 75 := col.isLt
  have hcol' : col'.val < 75 := col'.isLt
  rw [screenCell_eq, screenCell_eq] at h
  exact ⟨Fin.ext (by omega), Fin.ext (by omega)⟩

/-- A word that is the address of a video cell has bit 15 clear. -/
theorem msb_of_screenCell {w : Word} {row : Fin Config.screenRows} {col : Fin Config.screenCols}
    (h : w.toNat = screenCell row col) : w.msb = false := by
  have := (screenCell_bounds row col).2
  rw [BitVec.msb_eq_decide, decide_eq_false_iff_not]
  omega

/-- Settles O60: the places and the video cells are one to one, and ST changes one cell. -/
theorem screenShowsVideoMemory : Obligations.ScreenShowsVideoMemory := by
  refine ⟨screenCell_eq, fun row col => ?_, fun a => screenCell_surjective, fun _ _ _ _ => screenCell_injective,
    fun m row col hn => ?_, fun n q r s row col hq hcell => ?_⟩
  · obtain ⟨hlo, hhi⟩ := screenCell_bounds row col
    exact Bool.and_eq_true_iff.mpr ⟨decide_eq_true hlo, decide_eq_true hhi⟩
  · rw [screenCode, hn]
  · obtain ⟨hread, hcells, -⟩ := write_one_cell s (readReg s q).toNat (readReg s (.gpr (gprOf r)))
    rw [hcell] at hread hcells
    refine ⟨_, exec_of_ends (.stRegi hq (msb_of_screenCell hcell)), ?_, fun row' col' hne => ?_⟩
    · rw [hcell, screenCode, hread]
      exact BitVec.setWidth_eq_extractLsb' (by decide) |>.symm
    · have hother : screenCell row' col' ≠ screenCell row col := fun h => by
        obtain ⟨rfl, rfl⟩ := screenCell_injective h
        exact hne rfl
      rw [hcell, screenCode, screenCode, hcells _ hother]

end Sys2Proof.Machine
end
